-- ==== Sys2Proof/Word.lean ====
section
/-!
DEFINITION. The two element types of the block: the byte of the wire, of the decoder buffer and of the
frame slot (`u8`, R9), and `Num`, the type of every sample, dB value, tracker and smoothing state (R9).
-/

namespace Sys2Proof

/-- `u8` of R9: an integer in 0..255, the byte; bit 7 is its most significant bit (R11). -/
abbrev Byte := BitVec 8

/-- The numbers of the machine the host runs, the rationals (log 1, DESIGN CHOICE): `+ - * /` and comparisons are exact,
as R121 asks; there is no NaN, infinity or rounding (U6). The block itself is written over any ordered field `K`: over the reals,
`Num` in R9 and D3, it is `exactStep`. -/
abbrev Number := Rat

end Sys2Proof
end

