-- ==== Sys2Proof/Config.lean ====
section
/-!
DEFINITION. What is fixed at construction: the configuration record (R6, R7, R12), the conditions under which
the block can be constructed with it (R136, R302, U4), and the numerics functions a computable model takes from
outside (R9), of which only the laws below are known.
-/

namespace Sys2Proof

/-- The three wire formats (R90): 116, 112 and 59 bytes at the default counts. -/
inductive Variant
  | v59 | v112 | v116
deriving DecidableEq, Repr

/-! ## The numerics -/

/-- The mathematical functions of R9, on the numbers `K`. The argument of `cosTurn` and `sinTurn` is in turns: `cosTurn x`
stands for `cos (2 * pi * x)`, the only form R138 and R139 use. -/
structure NumFns (K : Type) where
  log10 : K → K
  sqrt : K → K
  cosTurn : K → K
  sinTurn : K → K

/-- The exact functions over the real numbers, which are `Num` in R9 and D3. -/
noncomputable def NumFns.exact : NumFns ℝ where
  log10 x := Real.logb 10 x
  sqrt x := Real.sqrt x
  cosTurn x := Real.cos (2 * Real.pi * x)
  sinTurn x := Real.sin (2 * Real.pi * x)

/-- What the rules use of the functions (log 17): the laws R9 names (monotonicity of `log10` and `sqrt`, `log10 (10^k) = k`),
a factor of ten (R122, R161 (g)), `sqrt` at 0 and 1, and that the cosine is 1 at 0, even and of period one turn (R138). The exact
functions meet them (`NumFns.exact_laws`). -/
structure NumFns.Laws {K : Type} [Field K] [LinearOrder K] (f : NumFns K) : Prop where
  log10_mono : ∀ x y : K, 0 < x → x ≤ y → f.log10 x ≤ f.log10 y
  log10_zpow : ∀ k : Int, f.log10 ((10 : K) ^ k) = (k : K)
  log10_ten_mul : ∀ x : K, 0 < x → f.log10 (10 * x) = f.log10 x + 1
  sqrt_mono : ∀ x y : K, 0 ≤ x → x ≤ y → f.sqrt x ≤ f.sqrt y
  sqrt_zero : f.sqrt 0 = 0
  sqrt_one : f.sqrt 1 = 1
  sqrt_hundred_mul : ∀ x : K, 0 ≤ x → f.sqrt (100 * x) = 10 * f.sqrt x
  cosTurn_zero : f.cosTurn 0 = 1
  cosTurn_neg : ∀ x : K, f.cosTurn (-x) = f.cosTurn x
  cosTurn_add_one : ∀ x : K, f.cosTurn (x + 1) = f.cosTurn x

theorem NumFns.exact_laws : NumFns.exact.Laws where
  log10_mono x y hx hxy := Real.logb_le_logb_of_le (by norm_num) hx hxy
  log10_zpow k := by
    show Real.logb 10 ((10 : ℝ) ^ k) = k
    rw [← Real.rpow_intCast, Real.logb_rpow (by norm_num) (by norm_num)]
  log10_ten_mul x hx := by
    show Real.logb 10 (10 * x) = Real.logb 10 x + 1
    rw [Real.logb_mul (by norm_num) hx.ne', Real.logb_self_eq_one (by norm_num), add_comm]
  sqrt_mono x y _ hxy := Real.sqrt_le_sqrt hxy
  sqrt_zero := Real.sqrt_zero
  sqrt_one := Real.sqrt_one
  sqrt_hundred_mul x _ := by
    show Real.sqrt (100 * x) = 10 * Real.sqrt x
    rw [Real.sqrt_mul (by norm_num), show (100 : ℝ) = 10 ^ 2 by norm_num, Real.sqrt_sq (by norm_num)]
  cosTurn_zero := by simp [NumFns.exact]
  cosTurn_neg x := by simp [NumFns.exact]
  cosTurn_add_one x := by
    show Real.cos (2 * Real.pi * (x + 1)) = Real.cos (2 * Real.pi * x)
    rw [mul_add, mul_one, Real.cos_add_two_pi]

/-- Functions a computable model takes (R9): the laws, and each value within the realisation's error `tol` of the exact
real function (R125), relative to it for `sqrt`. -/
structure NumFns.Lawful (f : NumFns Number) (tol : Number) : Prop extends f.Laws where
  log10_near : ∀ x : Number, 0 < x → |((f.log10 x : Number) : ℝ) - NumFns.exact.log10 x| ≤ tol
  sqrt_near : ∀ x : Number, 0 ≤ x → |((f.sqrt x : Number) : ℝ) - NumFns.exact.sqrt x| ≤ tol * NumFns.exact.sqrt x
  cosTurn_near : ∀ x : Number, |((f.cosTurn x : Number) : ℝ) - NumFns.exact.cosTurn x| ≤ tol
  sinTurn_near : ∀ x : Number, |((f.sinTurn x : Number) : ℝ) - NumFns.exact.sinTurn x| ≤ tol

/-- The coarsest functions that meet the laws: powers of ten for `log10` and `sqrt`, the whole turns for the cosine. They only
show that the laws can be met by computable functions, so that the record below has an inhabitant. -/
def NumFns.coarse : NumFns Number where
  log10 x := (Int.log 10 x : Number)
  sqrt x := if 0 < x then (10 : Number) ^ Int.log 100 x else 0
  cosTurn x := if Int.fract x = 0 then 1 else 0
  sinTurn _ := 0

/-- `Int.log` is the exponent of the power of `b` at or below `x`. -/
theorem NumFns.coarse_log_eq {b : Nat} (hb : 1 < b) {x : Number} (hx : 0 < x) {k : Int} (lo : (b : Number) ^ k ≤ x)
    (hi : x < (b : Number) ^ (k + 1)) : Int.log b x = k := by
  have h1 := (Int.zpow_le_iff_le_log hb hx).mp lo
  have h2 := (Int.lt_zpow_iff_log_lt hb hx).mp hi
  omega

theorem NumFns.coarse_log_mul {b : Nat} (hb : 1 < b) {x : Number} (hx : 0 < x) : Int.log b ((b : Number) * x) = Int.log b x + 1 := by
  have hb0 : (0 : Number) < b := by exact_mod_cast (by omega : 0 < b)
  apply NumFns.coarse_log_eq hb (mul_pos hb0 hx)
  · rw [zpow_add_one₀ hb0.ne', mul_comm]
    exact mul_le_mul_of_nonneg_left (Int.zpow_log_le_self hb hx) hb0.le
  · rw [zpow_add_one₀ hb0.ne' (Int.log b x + 1), mul_comm]
    exact mul_lt_mul_of_pos_right (Int.lt_zpow_succ_log_self hb x) hb0

theorem NumFns.coarse_log10_near (x : Number) (hx : 0 < x) :
    |((NumFns.coarse.log10 x : Number) : ℝ) - Real.logb 10 (x : ℝ)| ≤ 1 := by
  have hx' : (0 : ℝ) < (x : ℝ) := by exact_mod_cast hx
  have lo : ((10 : ℝ) ^ (Int.log 10 x)) ≤ (x : ℝ) := by
    have h : (10 : Number) ^ Int.log 10 x ≤ x := by
      simpa using Int.zpow_log_le_self (b := 10) (by norm_num) hx
    have h2 : (((10 : Number) ^ Int.log 10 x : Number) : ℝ) ≤ (x : ℝ) := by exact_mod_cast h
    simpa using h2
  have hi : (x : ℝ) < (10 : ℝ) ^ (Int.log 10 x + 1) := by
    have h : x < (10 : Number) ^ (Int.log 10 x + 1) := by
      simpa using Int.lt_zpow_succ_log_self (b := 10) (by norm_num) x
    have h2 : (x : ℝ) < (((10 : Number) ^ (Int.log 10 x + 1) : Number) : ℝ) := by exact_mod_cast h
    push_cast at h2
    exact h2
  have l1 : (Int.log 10 x : ℝ) ≤ Real.logb 10 (x : ℝ) := by
    rw [Real.le_logb_iff_rpow_le (by norm_num) hx', Real.rpow_intCast]; exact lo
  have l2 : Real.logb 10 (x : ℝ) ≤ (Int.log 10 x : ℝ) + 1 := by
    rw [Real.logb_le_iff_le_rpow (by norm_num) hx']
    have : ((Int.log 10 x : ℝ) + 1) = ((Int.log 10 x + 1 : Int) : ℝ) := by push_cast; rfl
    rw [this, Real.rpow_intCast]; exact hi.le
  have e : ((NumFns.coarse.log10 x : Number) : ℝ) = (Int.log 10 x : ℝ) := by
    simp [NumFns.coarse]
  rw [e, abs_le]
  constructor <;> linarith

theorem NumFns.coarse_sqrt_near (x : Number) (hx : 0 ≤ x) :
    |((NumFns.coarse.sqrt x : Number) : ℝ) - Real.sqrt (x : ℝ)| ≤ 9 * Real.sqrt (x : ℝ) := by
  rcases hx.eq_or_lt with rfl | hx
  · simp [NumFns.coarse]
  have e : ((NumFns.coarse.sqrt x : Number) : ℝ) = (10 : ℝ) ^ Int.log 100 x := by
    show ((if 0 < x then (10 : Number) ^ Int.log 100 x else 0 : Number) : ℝ) = _
    rw [if_pos hx]; push_cast; rfl
  have sq : ∀ k : Int, ((100 : ℝ) ^ k) = ((10 : ℝ) ^ k) ^ 2 := by
    intro k
    rw [show (100 : ℝ) = 10 ^ 2 by norm_num, ← zpow_natCast, ← zpow_natCast, zpow_comm]
  have p : ∀ k : Int, (0 : ℝ) < (10 : ℝ) ^ k := fun k => zpow_pos (by norm_num) k
  have lo : (10 : ℝ) ^ Int.log 100 x ≤ Real.sqrt (x : ℝ) := by
    have h : (100 : Number) ^ Int.log 100 x ≤ x := by
      simpa using Int.zpow_log_le_self (b := 100) (by norm_num) hx
    have h2 : (((100 : Number) ^ Int.log 100 x : Number) : ℝ) ≤ (x : ℝ) := by exact_mod_cast h
    push_cast at h2
    exact Real.le_sqrt_of_sq_le (by rw [← sq]; exact h2)
  have hi : Real.sqrt (x : ℝ) ≤ 10 * (10 : ℝ) ^ Int.log 100 x := by
    have h : x < (100 : Number) ^ (Int.log 100 x + 1) := by
      simpa using Int.lt_zpow_succ_log_self (b := 100) (by norm_num) x
    have h2 : (x : ℝ) < (((100 : Number) ^ (Int.log 100 x + 1) : Number) : ℝ) := by exact_mod_cast h
    push_cast at h2
    have e10 : 10 * (10 : ℝ) ^ Int.log 100 x = (10 : ℝ) ^ (Int.log 100 x + 1) := by
      rw [zpow_add_one₀ (by norm_num), mul_comm]
    rw [e10]
    exact Real.sqrt_le_iff.mpr ⟨(p _).le, by rw [← sq]; exact h2.le⟩
  have p0 := p (Int.log 100 x)
  rw [e, abs_le]
  constructor <;> linarith

theorem NumFns.coarse_laws : NumFns.coarse.Laws where
  log10_mono x y hx hxy := by
    show ((Int.log 10 x : Number)) ≤ (Int.log 10 y : Number)
    exact_mod_cast Int.log_mono_right hx hxy
  log10_zpow k := by
    show ((Int.log 10 ((10 : Number) ^ k) : Number)) = (k : Number)
    have h := Int.log_zpow (R := Number) (b := 10) (by norm_num) k
    exact_mod_cast h
  log10_ten_mul x hx := by
    show ((Int.log 10 (10 * x) : Number)) = (Int.log 10 x : Number) + 1
    have h := NumFns.coarse_log_mul (b := 10) (by norm_num) hx
    exact_mod_cast h
  sqrt_mono x y hx hxy := by
    show (if 0 < x then (10 : Number) ^ Int.log 100 x else 0) ≤ (if 0 < y then (10 : Number) ^ Int.log 100 y else 0)
    rcases hx.eq_or_lt with rfl | hx
    · rw [if_neg (lt_irrefl _)]
      split
      · positivity
      · exact le_rfl
    · rw [if_pos hx, if_pos (hx.trans_le hxy)]
      exact zpow_le_zpow_right₀ (by norm_num) (Int.log_mono_right hx hxy)
  sqrt_zero := by simp [NumFns.coarse]
  sqrt_one := by simp [NumFns.coarse]
  sqrt_hundred_mul x hx := by
    show (if 0 < 100 * x then (10 : Number) ^ Int.log 100 (100 * x) else 0) = 10 * (if 0 < x then (10 : Number) ^ Int.log 100 x else 0)
    rcases hx.eq_or_lt with rfl | hx
    · simp
    · have h := NumFns.coarse_log_mul (b := 100) (by norm_num) hx
      push_cast at h
      rw [if_pos (by positivity), if_pos hx, h, zpow_add_one₀ (by norm_num), mul_comm]
  cosTurn_zero := by simp [NumFns.coarse]
  cosTurn_neg x := by
    show (if Int.fract (-x) = 0 then (1 : Number) else 0) = if Int.fract x = 0 then 1 else 0
    simp only [Int.fract_neg_eq_zero]
  cosTurn_add_one x := by simp [NumFns.coarse]

theorem NumFns.coarse_lawful : NumFns.coarse.Lawful 9 where
  toLaws := NumFns.coarse_laws
  log10_near x hx := (NumFns.coarse_log10_near x hx).trans (by norm_num)
  sqrt_near x hx := by simpa [NumFns.exact] using NumFns.coarse_sqrt_near x hx
  cosTurn_near x := by
    have h := Real.abs_cos_le_one (2 * Real.pi * (x : ℝ))
    rw [abs_le] at h ⊢
    simp only [NumFns.coarse, NumFns.exact]
    split <;> push_cast <;> constructor <;> linarith
  sinTurn_near x := by
    have h := Real.abs_sin_le_one (2 * Real.pi * (x : ℝ))
    rw [abs_le] at h ⊢
    simp only [NumFns.coarse, NumFns.exact]
    push_cast
    constructor <;> linarith

/-- The numerics part of the configuration record (R9, R12, R125): functions, an error bound, and the proof that they
meet the laws. The default values only show that such a record exists. -/
structure Numerics where
  fns : NumFns Number := NumFns.coarse
  tol : Number := 9
  lawful : fns.Lawful tol := by exact NumFns.coarse_lawful
deriving Inhabited

/-- The numerics records a block can be constructed with, by name. Nothing is known of any but the laws it carries (log 1), so a
claim holds for every lawful record, however small its tolerance. -/
opaque Config.numericsNamed : Nat → Numerics

/-! ## The configuration record -/

/-- The wire constants of R7, at their defaults unless the record says otherwise; `BODY_LEN` and `PKT_LEN` are derived from them and the
variant (R302 (4)) in `Sys2Proof.Decode`. -/
structure WireFormat where
  /-- `SYNC0` (R7, R91). -/
  sync0 : Byte := 0xAA#8
  /-- `SYNC1` (R7, R91). -/
  sync1 : Byte := 0x55#8
  /-- `BARS_PER_PKT` (R7). -/
  barsPerPkt : Nat := 53
  /-- `SCOPE_PER_PKT` of the variants that carry the section (R7). -/
  scopePerPkt : Nat := 53
  /-- `VU_PER_PKT` of the variant that carries the section (R7). -/
  vuPerPkt : Nat := 4
  /-- `BAR_CLAMP` (R7, R95). -/
  barClamp : Byte := 11
  /-- `SCOPE_CLAMP` (R7, R95). -/
  scopeClamp : Byte := 10
  /-- `VU_CLAMP` (R7, R95). -/
  vuClamp : Byte := 53
deriving DecidableEq, Repr

/-- The configuration record of R6, R7 and R12 over the numbers `K`, fixed at construction (R37): sizes, tables and constants, under the
spec's names. -/
structure ConfigOf (K : Type) where
  /-- `NB`, samples per block (R6). -/
  nb : Nat
  /-- `N_BANDS`, number of spectrum bands (R7, R8). -/
  nBands : Nat
  /-- `SCOPE_COLS`, number of trace points (R7). -/
  scopeCols : Nat
  /-- `FS_HZ`, sample rate; read only by the recommended generator of R137 (R6). -/
  fsHz : K
  /-- `FMIN_HZ` (R6, R137). -/
  fminHz : K
  /-- `FMAX_HZ` (R6, R137). -/
  fmaxHz : K
  /-- `EDGES`, the band-edge table (R136). -/
  edges : List Nat
  /-- `WIN`, the window table (R138). -/
  win : List K
  /-- `MAG_FLOOR` (R7, R122). -/
  magFloor : K
  /-- `SA_DB_FLOOR`, dB (R7). -/
  saDbFloor : K
  saRise : K
  saRelease : K
  saHeadroomDb : K
  saRangeDb : K
  /-- `MAX_HEIGHT`, largest bar height (R7). -/
  maxHeight : Nat
  saAttack : K
  saDecay : K
  /-- `LM_DB_FLOOR`, dB (R7). -/
  lmDbFloor : K
  lmRise : K
  lmRelease : K
  lmHeadroomDb : K
  lmRangeDb : K
  /-- `VU_MAX`, largest level-meter column (R7, D37). -/
  vuMax : Nat
  lmRmsAttack : K
  lmRmsDecay : K
  lmPeakAttack : K
  /-- `LM_PEAK_DROP`, drop per call as a fraction of `VU_MAX` (R7, R176). -/
  lmPeakDrop : K
  /-- `MAX_Y`, largest trace position (R7). -/
  maxY : Nat
  wtRise : K
  wtRelease : K
  /-- `WT_MIN_AMP` (R7, R195). -/
  wtMinAmp : K
  /-- `SYNC0`, `SYNC1`, the counts per packet and the clamps (R7). -/
  wire : WireFormat
  /-- `PKT_VARIANT` of the encoder (R7, R303; log 11). -/
  encVariant : Variant
  /-- `PKT_VARIANT` of the decoder (R7, R303; log 11). -/
  decVariant : Variant
  /-- `TICK_HZ`; timing only, no rule reads it (R7). -/
  tickHz : K
  /-- Which of `Config.numericsNamed` the block was constructed with (R9; log 1). -/
  numerics : Nat
deriving DecidableEq, Repr

/-- The record of the machine (log 1). -/
abbrev Config := ConfigOf Number

/-- The numerics functions of the record (R9). -/
def Config.fns (c : Config) : NumFns Number := (Config.numericsNamed c.numerics).fns

/-- R136 (c): each entry is at most the next. -/
def ConfigOf.nondecreasing : List Nat → Bool
  | [] => true
  | [_] => true
  | a :: b :: rest => decide (a ≤ b) && ConfigOf.nondecreasing (b :: rest)

/-- A rate of R302: in `(0, 1]`. -/
abbrev ConfigOf.Rate {K : Type} [Field K] [LinearOrder K] (r : K) : Prop := 0 < r ∧ r ≤ 1

variable {K : Type} [Field K] [LinearOrder K]

/-- R6 and R302 (1): `NB` even and at least 8, at least one band (R8), at least one trace point (log 16), the integer
maxima in 0..255. -/
abbrev ConfigOf.SizesValid (c : ConfigOf K) : Prop :=
  8 ≤ c.nb ∧ c.nb % 2 = 0 ∧ 1 ≤ c.nBands ∧ 1 ≤ c.scopeCols ∧
  c.maxHeight ≤ 255 ∧ c.vuMax ≤ 255 ∧ c.maxY ≤ 255

/-- R302 (2), (3) and R136 (a) to (c). -/
abbrev ConfigOf.TablesValid (c : ConfigOf K) : Prop :=
  c.win.length = c.nb ∧ c.edges.length = c.nBands + 1 ∧
  (∀ e ∈ c.edges, e ≤ c.nb / 2) ∧ ConfigOf.nondecreasing c.edges = true

/-- R302: all rates in `(0, 1]`, each release at most its rise. -/
abbrev ConfigOf.RatesValid (c : ConfigOf K) : Prop :=
  ConfigOf.Rate c.saRise ∧ ConfigOf.Rate c.saRelease ∧ c.saRelease ≤ c.saRise ∧
  ConfigOf.Rate c.saAttack ∧ ConfigOf.Rate c.saDecay ∧
  ConfigOf.Rate c.lmRise ∧ ConfigOf.Rate c.lmRelease ∧ c.lmRelease ≤ c.lmRise ∧
  ConfigOf.Rate c.lmRmsAttack ∧ ConfigOf.Rate c.lmRmsDecay ∧
  ConfigOf.Rate c.lmPeakAttack ∧ ConfigOf.Rate c.lmPeakDrop ∧
  ConfigOf.Rate c.wtRise ∧ ConfigOf.Rate c.wtRelease ∧ c.wtRelease ≤ c.wtRise

/-- R302: headrooms, ranges, the magnitude floor and the minimum amplitude are positive. -/
abbrev ConfigOf.FloorsValid (c : ConfigOf K) : Prop :=
  0 < c.saHeadroomDb ∧ 0 < c.saRangeDb ∧ 0 < c.lmHeadroomDb ∧ 0 < c.lmRangeDb ∧
  0 < c.magFloor ∧ 0 < c.wtMinAmp

/-- The block can be constructed with this record (R302). The two constraints that R302 puts after an "if" are no condition here
(log 22): a record whose `MAX_HEIGHT`, `VU_MAX` or `MAX_Y` is above the encoder's clamp, or with `LM_PEAK_DROP * VU_MAX ≥ 0.5`, is
admitted, and loses what the "if" names (values unchanged by encoding, an invisible undershoot). -/
def ConfigOf.isValid (c : ConfigOf K) : Bool :=
  decide (c.SizesValid ∧ c.TablesValid ∧ c.RatesValid ∧ c.FloorsValid)

/-- The record is valid; with any other record no operation has a meaning (U4, D34). -/
abbrev ConfigOf.Valid (c : ConfigOf K) : Prop := c.isValid = true

theorem ConfigOf.valid_iff (c : ConfigOf K) :
    c.Valid ↔ c.SizesValid ∧ c.TablesValid ∧ c.RatesValid ∧ c.FloorsValid := by
  simp only [ConfigOf.Valid, ConfigOf.isValid, decide_eq_true_eq]

end Sys2Proof
end

