-- ==== Sys2Proof/Machine/Numerics.lean ====
section
/-!
DEFINITION. The shared numeric functions of `40_common_numerics_bandmapper.md` (R122 to R131) and the primitives
of R10, each exact (R121), for any ordered field `K`: the machine's numbers (log 1) and the real numbers of R9.
-/

namespace Sys2Proof.Machine

variable {K : Type} [Field K] [LinearOrder K]

/-- `clamp(v, lo, hi)` of R10. -/
def clamp (v lo hi : K) : K := max lo (min hi v)

/-- `clamp` on integers (R10, R177, R196). -/
def clampInt (v lo hi : Int) : Int := max lo (min hi v)

/-- `trunc` of R123: rounds toward zero. -/
def trunc [FloorRing K] (v : K) : Int := if 0 ≤ v then ⌊v⌋ else ⌈v⌉

/-- `rne` of R124: the nearest integer, a tie going to the even one. -/
def rne [FloorRing K] (v : K) : Int :=
  if v - ⌊v⌋ < 1 / 2 then ⌊v⌋
  else if 1 / 2 < v - ⌊v⌋ then ⌊v⌋ + 1
  else if ⌊v⌋ % 2 = 0 then ⌊v⌋ else ⌊v⌋ + 1

/-- `to_db` of R122, with the configuration's `MAG_FLOOR`. -/
def toDb (f : NumFns K) (magFloor v : K) : K := 20 * f.log10 (max v magFloor)

/-- `track` of R126: the asymmetric exponential tracker. -/
def track (tp m rise rel : K) : K :=
  if m > tp then tp + rise * (m - tp) else tp + rel * (m - tp)

/-- `track_db` of R128: `track` bounded below by the dB floor. -/
def trackDb (tp m rise rel dbFloor : K) : K := max (track tp m rise rel) dbFloor

/-- The pair `(ceil_db, floor_db)` of R129. -/
structure Window (K : Type) where
  ceil : K
  floor : K
deriving DecidableEq, Repr

/-- `window` of R129. -/
def displayWindow (tp headroom range dbFloor : K) : Window K where
  ceil := tp + headroom
  floor := max (tp + headroom - range) dbFloor

/-- `norm01` of R130. -/
def norm01 (d : K) (w : Window K) : K := clamp ((d - w.floor) / (w.ceil - w.floor)) 0 1

/-- `smooth` of R131: the asymmetric one-pole smoother. -/
def smooth (cur target attack decay : K) : K :=
  if target ≥ cur then cur + attack * (target - cur) else cur + decay * (target - cur)

/-- The sum of a sequence (R139, R153, R172). -/
def sumNums : List K → K
  | [] => 0
  | x :: xs => x + sumNums xs

/-- The largest element of a sequence (R132, R155, R194); the empty sequence, which no rule asks about, gives 0. -/
def maxNums : List K → K
  | [] => 0
  | [x] => x
  | x :: y :: rest => max x (maxNums (y :: rest))

end Sys2Proof.Machine
end

