-- ==== Sys2Proof/Machine/BandMapper.lean ====
section
/-!
DEFINITION. The tables of the BandMapper unit and what reads them: `span` (R140), the magnitude spectrum `rfft_mag`
(R139), the default window table (R138) and the recommended band-edge generator (R137).
-/

namespace Sys2Proof.Machine

variable {K : Type} [Field K] [LinearOrder K]

/-- The upper edge of band `i` after the forced one-bin span (R140). -/
def spanHi (edges : List Nat) (i : Nat) : Nat :=
  if edges.getD (i + 1) 0 > edges.getD i 0 then edges.getD (i + 1) 0 else edges.getD i 0 + 1

/-- `span(i)` of R140: band `i` covers the bins `lo, …, hi - 1`. -/
def span (edges : List Nat) (i : Nat) : Nat × Nat := (edges.getD i 0, spanHi edges i)

/-- `re[k]` of R139. -/
def dftRe (f : NumFns K) (x : List K) (nb k : Nat) : K :=
  sumNums (x.zipIdx.map fun p => p.1 * f.cosTurn ((k * p.2 : Nat) / (nb : K)))

/-- `im[k]` of R139. -/
def dftIm (f : NumFns K) (x : List K) (nb k : Nat) : K :=
  -sumNums (x.zipIdx.map fun p => p.1 * f.sinTurn ((k * p.2 : Nat) / (nb : K)))

/-- `mag[k]` of R139. -/
def dftMag (f : NumFns K) (x : List K) (nb k : Nat) : K :=
  f.sqrt (dftRe f x nb k * dftRe f x nb k + dftIm f x nb k * dftIm f x nb k)

/-- `rfft_mag` of R139: the bins `0 .. NB/2`, no scaling. -/
def rfftMag (f : NumFns K) (nb : Nat) (x : List K) : List K :=
  (List.range (nb / 2 + 1)).map (dftMag f x nb)

/-- The mean of the elements `lo, …, hi - 1` of a sequence (R153). -/
def meanSlice (mag : List K) (s : Nat × Nat) : K :=
  sumNums ((mag.drop s.1).take (s.2 - s.1)) / ((s.2 - s.1 : Nat) : K)

/-- The default window table of R138: the symmetric Hann window of `nb` entries. -/
def hannWindow (f : NumFns K) (nb : Nat) : List K :=
  (List.range nb).map fun n : Nat => 1 / 2 * (1 - f.cosTurn ((n : K) / ((nb - 1 : Nat) : K)))

/-- The largest `m ≤ bound` with `m ≤ f_j * NB / FS_HZ`, where `f_j = FMIN_HZ * (FMAX_HZ / FMIN_HZ)^(j / N_BANDS)`.
The comparison is made exactly, both sides raised to the power `N_BANDS` (log 20). -/
def edgeBin (c : ConfigOf K) (j : Nat) : Nat → Nat
  | 0 => 0
  | m + 1 =>
    if (((m + 1 : Nat) : K) * c.fsHz / (c.nb * c.fminHz)) ^ c.nBands ≤ (c.fmaxHz / c.fminHz) ^ j then m + 1
    else edgeBin c j m

/-- The recommended generator of R137: `EDGES[j] = clamp(floor(f_j * NB / FS_HZ), 0, NB/2)` for `0 ≤ j ≤ N_BANDS`. -/
def edgesGenerated (c : ConfigOf K) : List Nat :=
  (List.range (c.nBands + 1)).map fun j => edgeBin c j (c.nb / 2)

end Sys2Proof.Machine
end

