-- ==== Sys2Proof/Machine/Parameters.lean ====
section
/-!
DEFINITION. The reference configuration: the defaults of R7 for every constant that has one (variant V116 and 53 bands, R1,
R8), and a valid value for the OPEN parameters of R6 (log 3, DESIGN CHOICE).
-/

namespace Sys2Proof

/-- The block size of the reference configuration (OPEN in R6; log 3). -/
def Config.referenceNb : Nat := 256

/-- The record a block is constructed with when every default of R7 is taken. `EDGES` is what the generator of R137
gives for the three frequencies here; `WIN` is the default table of R138, its cosine from `f`. -/
def ConfigOf.reference {K : Type} [Field K] [LinearOrder K] (f : NumFns K) : ConfigOf K where
  nb := Config.referenceNb
  nBands := 53
  scopeCols := 53
  fsHz := 25600
  fminHz := 100
  fmaxHz := 12800
  edges :=
    [1, 1, 1, 1, 1, 1, 1, 1, 2, 2, 2, 2, 2, 3, 3, 3, 4, 4, 5, 5, 6, 6, 7, 8, 8, 9, 10,
     11, 12, 14, 15, 17, 18, 20, 22, 24, 26, 29, 32, 35, 38, 42, 46, 51, 56, 61, 67, 73, 80, 88, 97, 106, 116, 128]
  win := Machine.hannWindow f Config.referenceNb
  magFloor := 1 / 10000000000
  saDbFloor := -60
  saRise := 9 / 10
  saRelease := 5 / 1000
  saHeadroomDb := 8
  saRangeDb := 55
  maxHeight := 11
  saAttack := 8 / 10
  saDecay := 3 / 10
  lmDbFloor := -60
  lmRise := 9 / 10
  lmRelease := 5 / 1000
  lmHeadroomDb := 3
  lmRangeDb := 54
  vuMax := 53
  lmRmsAttack := 7 / 10
  lmRmsDecay := 25 / 100
  lmPeakAttack := 95 / 100
  lmPeakDrop := 8 / 1000
  maxY := 10
  wtRise := 9 / 10
  wtRelease := 1 / 100
  wtMinAmp := 1 / 1000
  wire := {}
  encVariant := .v116
  decVariant := .v116
  tickHz := 30
  numerics := 0

/-- The reference record of the machine: its numerics are the record named 0 (log 1). -/
def Config.reference : Config := ConfigOf.reference (Config.numericsNamed 0).fns

/-- The reference record over the real numbers: `WIN` is the exact Hann table (R9, R138). -/
noncomputable def ConfigOf.exactReference : ConfigOf ℝ := ConfigOf.reference NumFns.exact

end Sys2Proof
end

