-- ==== Sys2Proof/Syntax.lean ====
section
/-!
DEFINITION. The instructions: one constructor per row of `spec/opcode_table.json` (the eight operations of R101, the three
packet formats of R91 to R93, the seven decoder byte classes of R98), and the words they are written in. Samples are of any
number type `K`: the reals of R9, and `Number` (log 1) where none is named.
-/

namespace Sys2Proof

/-- An instruction of the block, one constructor per row of the opcode table. -/
inductive Instr (K : Type := Number)
  /-- `SA.PROCESS blk` (R150). -/
  | saProcess (blk : List K)
  /-- `LM.PROCESS left, right` (R170). -/
  | lmProcess (left right : List K)
  /-- `WT.PROCESS blk` (R190). -/
  | wtProcess (blk : List K)
  /-- `ENC.ENCODE board_id, frame_seq, brightness, bars, scope_en, scope, vu_en, vu` (R210); the lengths of the arrays are the
  counts per packet (R7), checked by `Instr.wellFormed`. -/
  | encEncode (boardId frameSeq brightness : Byte) (bars : List Byte) (scopeEn : Bool) (scope : List Byte)
      (vuEn : Bool) (vu : List Byte)
  /-- `DEC.FEED b` (R225). -/
  | decFeed (b : Byte)
  /-- `DEC.VALIDATE buf` (R232). -/
  | decValidate (buf : List Byte)
  /-- `FS.PUBLISH bars, scope, vu` (R251); the lengths `N_BANDS` and `SCOPE_COLS` are checked by `Instr.wellFormed`. -/
  | fsPublish (bars scope : List Byte) (vu : Vector Byte 4)
  /-- `FS.TICK brightness` (R252). -/
  | fsTick (brightness : Byte)
  /-- A datagram of format V116 (R91; log 8): the sync marker and these fields, the arrays of the counts per packet (R7). -/
  | pktV116 (boardId frameSeq brightness : Byte) (bars scope vu : List Byte) (checksum : Byte)
  /-- A datagram of format V112 (R92; log 8). -/
  | pktV112 (boardId frameSeq brightness : Byte) (bars scope : List Byte) (checksum : Byte)
  /-- A datagram of format V59 (R93; log 8). -/
  | pktV59 (boardId frameSeq brightness : Byte) (bars : List Byte) (checksum : Byte)
  /-- Wire byte `SYNC0` in state S0 (R98, R226; log 9). -/
  | decS0Sync0
  /-- Any other wire byte in state S0 (R98, R226). -/
  | decS0Other (b : Byte)
  /-- Wire byte `SYNC1` in state S1 (R98, R227). -/
  | decS1Sync1
  /-- Wire byte `SYNC0` in state S1 (R98, R228). -/
  | decS1Sync0
  /-- Any other wire byte in state S1 (R98, R228). -/
  | decS1Other (b : Byte)
  /-- A wire byte in state S2 with `DEC.cur < BODY_LEN` (R98, R229). -/
  | decS2Body (b : Byte)
  /-- A wire byte in state S2 with `DEC.cur = BODY_LEN`: the checksum (R98, R230). -/
  | decS2Check (b : Byte)
deriving DecidableEq, Repr

/-- The position of the decoder in the packet grammar, as the rows of R98 distinguish it. -/
inductive DecPos
  | s0 | s1 | s2Body | s2Check
deriving DecidableEq, Repr

/-- One operand of a command, of a type of R101; a sequence carries its own length (R101; log 10). -/
inductive Operand (K : Type := Number)
  | nums (xs : List K)
  | bytes (bs : List Byte)
  | byte (b : Byte)
  | bit (b : Bool)
deriving DecidableEq, Repr

/-- A command as it stands on a unit's command port (R5, R100): the code `op[3:0]` and the operands in the order of R101. -/
structure CmdWord (K : Type := Number) where
  op : BitVec 4
  operands : List (Operand K)
deriving DecidableEq, Repr

/-- What an instruction is written in: a command (R101), one byte of the wire stream (R63, R98), or one datagram (R66). -/
inductive InstrWord (K : Type := Number)
  | command (w : CmdWord K)
  | wire (b : Byte)
  | datagram (buf : List Byte)
deriving DecidableEq, Repr

/-- Why a word selects no operation. -/
inductive DecodeError
  /-- The operation codes 0x0 and 0x9 to 0xF (R99 (f), R101). -/
  | noOperation (op : BitVec 4)
  /-- The operands are not those R101 lists for the code (U7: "a realisation with run-time lengths must reject"). -/
  | operandShape (op : BitVec 4)
deriving DecidableEq, Repr

end Sys2Proof
end

