-- ==== Sys2Proof/Decode.lean ====
section
/-!
DEFINITION. The packet layouts (R90 to R93), the decoder of instruction words, total on any word and rejecting by name
(R98, R99, R101), the encoder of the same tables, and the reading of the opcode table's own words.
-/

namespace Sys2Proof

/-! ## The wire format -/

/-- The variant carries the scope section (R90, R211). -/
def Variant.hasScope : Variant → Bool
  | .v59 => false
  | .v112 => true
  | .v116 => true

/-- The variant carries the VU section (R90, R211). -/
def Variant.hasVu : Variant → Bool
  | .v59 => false
  | .v112 => false
  | .v116 => true

/-- `BODY_LEN` (R7, R302 (4)): the header bytes and the arrays the variant carries; with the default counts 56, 109 and 113. -/
def WireFormat.bodyLen (f : WireFormat) (v : Variant) : Nat :=
  3 + f.barsPerPkt + (if v.hasScope then f.scopePerPkt else 0) + (if v.hasVu then f.vuPerPkt else 0)

/-- `PKT_LEN = BODY_LEN + 3` (R7). -/
def WireFormat.pktLen (f : WireFormat) (v : Variant) : Nat := f.bodyLen v + 3

/-- The `n` bytes from index `off` on; every index a rule uses is inside the sequence (R62). -/
def bytesAt (n off : Nat) (buf : List Byte) : List Byte := (buf.drop off).take n

/-- The body of a packet: header fields, then the arrays the variant carries (R211). -/
def bodyOf (v : Variant) (boardId frameSeq brightness : Byte) (bars scope vu : List Byte) : List Byte :=
  [boardId, frameSeq, brightness] ++ bars ++ (if v.hasScope then scope else []) ++ (if v.hasVu then vu else [])

/-- A packet: the two sync bytes, the body, the checksum byte (R91 to R93). -/
def packetOf (f : WireFormat) (body : List Byte) (checksum : Byte) : List Byte := [f.sync0, f.sync1] ++ body ++ [checksum]

/-- The first two bytes are the sync marker (R91). -/
def hasSync (f : WireFormat) (buf : List Byte) : Bool := buf.getD 0 0 == f.sync0 && buf.getD 1 0 == f.sync1

/-- The arrays of a packet have the counts of R7. -/
def encoderArraysFit (f : WireFormat) (bars scope vu : List Byte) : Bool :=
  decide (bars.length = f.barsPerPkt) && decide (scope.length = f.scopePerPkt) && decide (vu.length = f.vuPerPkt)

/-! ## Decoding -/

variable {K : Type}

/-- A byte sequence as the `vu` operand of `FS.PUBLISH` (R251); none when the length is not 4 (U7). -/
def toArrayOperand (n : Nat) (bs : List Byte) : Option (Vector Byte n) :=
  if h : bs.length = n then some ⟨bs.toArray, by simpa using h⟩ else none

/-- The operands of `ENC.ENCODE` (R101, R210). -/
def decodeEncode (f : WireFormat) : List (Operand K) → Option (Instr K)
  | [.byte boardId, .byte frameSeq, .byte brightness, .bytes bars, .bit scopeEn, .bytes scope, .bit vuEn, .bytes vu] =>
    if encoderArraysFit f bars scope vu then some (.encEncode boardId frameSeq brightness bars scopeEn scope vuEn vu) else none
  | _ => none

/-- The operands of `FS.PUBLISH` (R101, R251). -/
def decodePublish : List (Operand K) → Option (Instr K)
  | [.bytes bars, .bytes scope, .bytes vu] => (toArrayOperand 4 vu).map (.fsPublish bars scope)
  | _ => none

/-- The operand lists of R101 by operation code; `none` where the operands are not those the table lists. -/
def decodeOperands (f : WireFormat) (op : Nat) (operands : List (Operand K)) : Option (Instr K) :=
  match op, operands with
  | 1, [.nums blk] => some (.saProcess blk)
  | 2, [.nums left, .nums right] => some (.lmProcess left right)
  | 3, [.nums blk] => some (.wtProcess blk)
  | 4, os => decodeEncode f os
  | 5, [.byte b] => some (.decFeed b)
  | 6, [.bytes buf] => some (.decValidate buf)
  | 7, os => decodePublish os
  | 8, [.byte brightness] => some (.fsTick brightness)
  | _, _ => none

/-- The code selects an operation: 0x1 to 0x8 (R101). -/
def selectsOperation (op : BitVec 4) : Bool := decide (1 ≤ op.toNat) && decide (op.toNat ≤ 8)

/-- A command word (R101). -/
def decodeCommand (f : WireFormat) (w : CmdWord K) : Except DecodeError (Instr K) :=
  if selectsOperation w.op then
    match decodeOperands f w.op.toNat w.operands with
    | some i => .ok i
    | none => .error (.operandShape w.op)
  else .error (.noOperation w.op)

/-- One wire byte: the row of R98 its class and the decoder's position select. Every byte selects a row (R99 (a)). -/
def decodeWire (f : WireFormat) (p : DecPos) (b : Byte) : Instr K :=
  match p with
  | .s0 => if b = f.sync0 then .decS0Sync0 else .decS0Other b
  | .s1 => if b = f.sync1 then .decS1Sync1 else if b = f.sync0 then .decS1Sync0 else .decS1Other b
  | .s2Body => .decS2Body b
  | .s2Check => .decS2Check b

/-- One datagram: a packet format of R91 to R93 where length and sync marker are that format's, and otherwise a buffer
for `DEC.VALIDATE` (R66; log 8). -/
def decodeDatagram (f : WireFormat) (buf : List Byte) : Instr K :=
  if hasSync f buf then
    if buf.length = f.pktLen .v116 then
      .pktV116 (buf.getD 2 0) (buf.getD 3 0) (buf.getD 4 0) (bytesAt f.barsPerPkt 5 buf)
        (bytesAt f.scopePerPkt (5 + f.barsPerPkt) buf) (bytesAt f.vuPerPkt (5 + f.barsPerPkt + f.scopePerPkt) buf)
        (buf.getD (f.pktLen .v116 - 1) 0)
    else if buf.length = f.pktLen .v112 then
      .pktV112 (buf.getD 2 0) (buf.getD 3 0) (buf.getD 4 0) (bytesAt f.barsPerPkt 5 buf)
        (bytesAt f.scopePerPkt (5 + f.barsPerPkt) buf) (buf.getD (f.pktLen .v112 - 1) 0)
    else if buf.length = f.pktLen .v59 then
      .pktV59 (buf.getD 2 0) (buf.getD 3 0) (buf.getD 4 0) (bytesAt f.barsPerPkt 5 buf) (buf.getD (f.pktLen .v59 - 1) 0)
    else .decValidate buf
  else .decValidate buf

/-- The decoder of instruction words; a wire byte is read at the decoder's position `p` (R98). -/
def decode (f : WireFormat) (p : DecPos) : InstrWord K → Except DecodeError (Instr K)
  | .command w => decodeCommand f w
  | .wire b => .ok (decodeWire f p b)
  | .datagram buf => .ok (decodeDatagram f buf)

/-! ## Encoding -/

/-- The word of an instruction, from the same tables (R91 to R93, R98, R101). -/
def encode (f : WireFormat) : Instr K → InstrWord K
  | .saProcess blk => .command ⟨1, [.nums blk]⟩
  | .lmProcess left right => .command ⟨2, [.nums left, .nums right]⟩
  | .wtProcess blk => .command ⟨3, [.nums blk]⟩
  | .encEncode boardId frameSeq brightness bars scopeEn scope vuEn vu =>
    .command ⟨4, [.byte boardId, .byte frameSeq, .byte brightness, .bytes bars, .bit scopeEn, .bytes scope, .bit vuEn, .bytes vu]⟩
  | .decFeed b => .command ⟨5, [.byte b]⟩
  | .decValidate buf => .command ⟨6, [.bytes buf]⟩
  | .fsPublish bars scope vu => .command ⟨7, [.bytes bars, .bytes scope, .bytes vu.toList]⟩
  | .fsTick brightness => .command ⟨8, [.byte brightness]⟩
  | .pktV116 boardId frameSeq brightness bars scope vu checksum =>
    .datagram (packetOf f (bodyOf .v116 boardId frameSeq brightness bars scope vu) checksum)
  | .pktV112 boardId frameSeq brightness bars scope checksum =>
    .datagram (packetOf f (bodyOf .v112 boardId frameSeq brightness bars scope []) checksum)
  | .pktV59 boardId frameSeq brightness bars checksum =>
    .datagram (packetOf f (bodyOf .v59 boardId frameSeq brightness bars [] []) checksum)
  | .decS0Sync0 => .wire f.sync0
  | .decS0Other b => .wire b
  | .decS1Sync1 => .wire f.sync1
  | .decS1Sync0 => .wire f.sync0
  | .decS1Other b => .wire b
  | .decS2Body b => .wire b
  | .decS2Check b => .wire b

/-! ## The opcode table's own words (log 15) -/

/-- The operands of R101 for an operation code, every one of them zero and of the lengths of the record: blocks of zero samples,
zero bytes, cleared bits. -/
def zeroOperands (c : Config) (op : Nat) : List Operand :=
  let block := Operand.nums (List.replicate c.nb 0)
  let bytes := fun n : Nat => Operand.bytes (List.replicate n 0)
  match op with
  | 1 => [block]
  | 2 => [block, block]
  | 3 => [block]
  | 4 => [.byte 0, .byte 0, .byte 0, bytes c.wire.barsPerPkt, .bit false, bytes c.wire.scopePerPkt, .bit false,
      bytes c.wire.vuPerPkt]
  | 5 => [.byte 0]
  | 6 => [.bytes []]
  | 7 => [bytes c.nBands, bytes c.scopeCols, bytes 4]
  | 8 => [.byte 0]
  | _ => []

/-- How many bytes a packet word of `nbits` bits fills: the row's own length where it says one of the three, and that of V116
otherwise (R90: the length is never in the packet). -/
def tablePacketLen (f : WireFormat) (nbits : Nat) : Nat :=
  if nbits = 8 * f.pktLen .v59 then f.pktLen .v59
  else if nbits = 8 * f.pktLen .v112 then f.pktLen .v112
  else f.pktLen .v116

/-- The bytes of a packet word: the table's `match` 0xAA55 is a 16-bit word whose high byte is written first; the
bytes after it count on from bit 16. -/
def tablePacketBytes (f : WireFormat) (nbits w : Nat) : List Byte :=
  [BitVec.ofNat 8 (w / 256), BitVec.ofNat 8 w] ++
    (List.range (tablePacketLen f nbits - 2)).map fun k => BitVec.ofNat 8 (w / 2 ^ (8 * (k + 2)))

/-- The word of the opcode table as a block of the record `c` is given it: a command where the bits are one of the eight codes (or
only the four bits of a code), a wire byte for any other byte, a datagram for a longer word. -/
def tableWord (c : Config) (nbits w : Nat) : InstrWord :=
  if nbits ≤ 4 then .command ⟨BitVec.ofNat 4 w, zeroOperands c (w % 16)⟩
  else if nbits ≤ 8 then
    if 1 ≤ w ∧ w ≤ 8 then .command ⟨BitVec.ofNat 4 w, zeroOperands c w⟩ else .wire (BitVec.ofNat 8 w)
  else .datagram (tablePacketBytes c.wire nbits w)

/-- The decoder position a table word is read at: S1 for `SYNC1`, which only the row `DEC.S1.SYNC1` names, and S0, where the block is
after reset (R40), for every other word. -/
def tablePos (c : Config) (nbits w : Nat) : DecPos :=
  match tableWord c nbits w with
  | .wire b => if b = c.wire.sync1 then .s1 else .s0
  | .command _ => .s0
  | .datagram _ => .s0

/-- The instruction the decoder of the reference configuration reads from a word of the opcode table. -/
def decodeTableWord (nbits w : Nat) : Option Instr :=
  match decode Config.reference.wire (tablePos Config.reference nbits w) (tableWord Config.reference nbits w) with
  | .ok i => some i
  | .error _ => none

end Sys2Proof
end

