-- ==== Sys2Proof/Machine/State.lean ====
section
/-!
DEFINITION. The state of the block (R20), what an operation returns to its issuer (R5, R101, R102), the ways a step can
stop, and the state after reset (R40).
-/

namespace Sys2Proof.Machine

/-- The three analyzers, the only units that can raise an exception (R270). -/
inductive Analyzer
  | sa | lm | wt
deriving DecidableEq, Repr

/-- What `BlockLength` records: its cause code and the unit (R270). -/
structure ExceptionRecord where
  code : Nat
  unit : Analyzer
deriving DecidableEq, Repr

/-- Why an operation was turned away with no state written and no result. -/
inductive RefusedBecause
  /-- The unit's fault flag is set (R274, U3). -/
  | unitFaulted (u : Analyzer)
  /-- The operation code selects no operation (R99 (f), U8). -/
  | noOperation (op : BitVec 4)
  /-- An operand is not of the shape R101 gives it (U7). -/
  | operandShape
deriving DecidableEq, Repr

/-- A decoded frame (R102): `scope` in V112 and V116 only, `vu` in V116 only; the arrays have the counts per packet (R7). -/
structure DecodedFrame where
  boardId : Byte
  frameSeq : Byte
  brightness : Byte
  bars : List Byte
  scope : Option (List Byte)
  vu : Option (List Byte)
deriving DecidableEq, Repr

/-- A Frame, the result of `FS.TICK` (R102, R252). -/
structure Frame where
  frameSeq : Byte
  brightness : Byte
  bars : List Byte
  scope : List Byte
  vu : Vector Byte 4
deriving DecidableEq, Repr

/-- What the last operation returned to the agent that issued it (R5, R101). -/
inductive Response
  /-- Nothing has been returned since reset (log 5). -/
  | idle
  /-- Completed; the operation has no result (R251). -/
  | done
  /-- `SA.PROCESS`: `bars` (R158). -/
  | bars (heights : List Int)
  /-- `LM.PROCESS`: `(l_rms, l_peak, r_rms, r_peak)` (R177). -/
  | levels (lRms lPeak rRms rPeak : Int)
  /-- `WT.PROCESS`: `ypos` (R196). -/
  | trace (ypos : List Int)
  /-- `ENC.ENCODE`: `pkt` (R210). -/
  | packet (pkt : List Byte)
  /-- `DEC.FEED`: zero or one decoded frame (R225). -/
  | frames (fs : List DecodedFrame)
  /-- `DEC.VALIDATE`: a frame or none (R232). -/
  | validated (f : Option DecodedFrame)
  /-- `FS.TICK`: one Frame (R252). -/
  | frame (f : Frame)
  /-- The operation raised `BlockLength` (R273: "the issuing agent is told the operation faulted"). -/
  | raised (e : ExceptionRecord)
  /-- The operation was turned away (R274, R99 (f), U7). -/
  | refused (why : RefusedBecause)
deriving DecidableEq, Repr

/-- One input of the environment (log 4): an instruction word, or the `RESET` event of R300. -/
inductive Input (K : Type := Number)
  | word (w : InstrWord K)
  | reset
deriving DecidableEq, Repr

/-- The spectrum analyzer's state (R21, R22, R36). -/
structure SaState (K : Type) where
  tp : K
  cur : List K
  fault : Bool
deriving DecidableEq, Repr

/-- A value per channel: index 0 is left, 1 is right (R24). -/
structure Stereo (K : Type) where
  left : K
  right : K
deriving DecidableEq, Repr

/-- The level meter's state (R23 to R25, R36). -/
structure LmState (K : Type) where
  tp : K
  rms : Stereo K
  peak : Stereo K
  fault : Bool
deriving DecidableEq, Repr

/-- The waveform tracer's state (R26, R36). -/
structure WtState (K : Type) where
  tp : K
  fault : Bool
deriving DecidableEq, Repr

/-- The decoder's state register (R27): S0 = AwaitSync0, S1 = AwaitSync1, S2 = AccumulateBody. -/
inductive DecSt
  | s0 | s1 | s2
deriving DecidableEq, Repr

/-- The streaming decoder's state (R27 to R29). -/
structure DecState where
  st : DecSt
  cur : Nat
  buf : List Byte
deriving DecidableEq, Repr

/-- The frame slot and the rolling sequence number (R30, R31). -/
structure FsState where
  bars : List Byte
  scope : List Byte
  vu : Vector Byte 4
  seq : Byte
deriving DecidableEq, Repr

/-- The state of the block: the table of R20 and nothing else, over the numbers `K` (the reals of R9, the machine's rationals). -/
structure BlockState (K : Type) where
  sa : SaState K
  lm : LmState K
  wt : WtState K
  dec : DecState
  fs : FsState
deriving DecidableEq, Repr

/-- What an operation gives: the state elements after it and the result for its issuer (R5). -/
abbrev Answer (K : Type) := BlockState K × Response

/-- The state the host steps: the state elements of R20 over the machine's numbers (log 1), and beside them what the block takes as
parameters and inputs, since the host's step takes nothing but a state: the configuration record (R37; log 2), the inputs not yet
taken (log 4) and the last result (log 5). -/
structure State extends BlockState Number where
  cfg : Config
  inbox : List Input
  result : Response
deriving DecidableEq, Repr

/-- Faults that stop the machine: none. The block's one exception, `BlockLength`, is an ordinary next state
(R273, R274: the other units go on; log 6), and nothing else in the spec stops it. -/
inductive Fault
deriving DecidableEq, Repr

/-- Refusals of the model. -/
inductive Refusal
  /-- Raised by an arm of `exec` that has no meaning yet; safe. No arm of this package uses it. -/
  | notModelled (mnemonic : String)
  /-- Raised by `step` on a state whose configuration is invalid: "the model cannot be instantiated; no operation has a
  meaning" (U4, D34, R302); safe. -/
  | invalidConfiguration
deriving DecidableEq, Repr

/-- The outcome of an instruction. -/
abbrev Result := Host.Outcome State Fault Refusal

/-- The state elements after reset of a block constructed with the record `c` (R40). -/
def BlockState.resetWith {K : Type} [Field K] (c : ConfigOf K) : BlockState K where
  sa := { tp := c.saDbFloor, cur := List.replicate c.nBands 0, fault := false }
  lm := { tp := c.lmDbFloor, rms := ⟨0, 0⟩, peak := ⟨0, 0⟩, fault := false }
  wt := { tp := c.wtMinAmp, fault := false }
  dec := { st := .s0, cur := 0, buf := List.replicate (c.wire.bodyLen c.decVariant + 1) 0 }
  fs := { bars := List.replicate c.nBands 0, scope := List.replicate c.scopeCols 0, vu := Vector.replicate 4 0, seq := 0 }

/-- The reset state of a machine constructed with the record `c` (R40). -/
def State.resetWith (c : Config) : State where
  toBlockState := BlockState.resetWith c
  cfg := c
  inbox := []
  result := .idle

/-- The machine right after reset (R40), in the reference configuration (log 3). -/
def State.reset : State := State.resetWith Config.reference

end Sys2Proof.Machine
end

