-- ==== Sys2Proof/Machine/Flags.lean ====
section
/-!
DEFINITION. The flags of the block: one sticky fault flag per analyzer and nothing else (R36). They are set by the
exception and cleared by reset only (R273, R274, R300).
-/

namespace Sys2Proof.Machine

variable {K : Type}

/-- The fault flag of an analyzer (R36). -/
def BlockState.faulted (b : BlockState K) : Analyzer → Bool
  | .sa => b.sa.fault
  | .lm => b.lm.fault
  | .wt => b.wt.fault

/-- `U.fault <- 1` (R273). -/
def BlockState.setFault (b : BlockState K) : Analyzer → BlockState K
  | .sa => { b with sa := { b.sa with fault := true } }
  | .lm => { b with lm := { b.lm with fault := true } }
  | .wt => { b with wt := { b.wt with fault := true } }

/-- `U.fault <- 1` in the machine's state. -/
def State.setFault (s : State) (u : Analyzer) : State := { s with toBlockState := s.toBlockState.setFault u }

end Sys2Proof.Machine
end

