-- ==== Sys2Proof/Machine/Ops.lean ====
section
/-!
DEFINITION. The operations every unit shares: answering the issuer (R5), taking the one exception and refusing a faulted
unit (R270 to R274), the reset event (R300), taking the next input, the decoder's position (R98) and the
ownership of instructions by agents (R286). There is no return from an exception (R274: "There is no return-from-trap
operation, no handler to return from"). An operation of the block is a function of the configuration record, a parameter (R37), and of
the state elements, over any numbers `K`; a meaning of the machine is that function at the machine's own record and state.
-/

namespace Sys2Proof.Machine

variable {K : Type}

/-! ## Operations of the block -/

/-- The operation changes nothing and returns `r` to its issuer (R5). -/
def BlockState.reply (b : BlockState K) (r : Response) : Answer K := (b, r)

/-- The cause code of `BlockLength` (R270). -/
def blockLengthCode : Nat := 1

/-- Taking the exception `BlockLength(u)` (R273): the unit's flag is set, nothing else of any unit is written, there is
no result, and the issuer is told, with the record of R270 (log 6). -/
def BlockState.raiseBlockLength (b : BlockState K) (u : Analyzer) : Answer K :=
  (b.setFault u, .raised ⟨blockLengthCode, u⟩)

/-- The checks of an analyzer operation in the order of R272: the fault flag (refused, R274), then the operand lengths
(`BlockLength`, R270), and only then the operation itself. -/
def BlockState.runAnalyzer (b : BlockState K) (u : Analyzer) (lengthsOk : Bool) (run : BlockState K → Answer K) : Answer K :=
  match b.faulted u, lengthsOk with
  | true, _ => b.reply (.refused (.unitFaulted u))
  | false, true => run b
  | false, false => b.raiseBlockLength u

/-- The decoder's position as the rows of R98 distinguish it; a cursor above `BODY_LEN`, which no run reaches in S2
(R28), completes like one at `BODY_LEN` (log 19). -/
def BlockState.decPos (c : ConfigOf K) (b : BlockState K) : DecPos :=
  match b.dec.st with
  | .s0 => .s0
  | .s1 => .s1
  | .s2 => if b.dec.cur < c.wire.bodyLen c.decVariant then .s2Body else .s2Check

/-! ## Operations of the machine -/

/-- The machine's state after an operation: its state elements, and its result, which is not part of the block's own state
(R20, log 5). The configuration and the inputs not yet taken stay. -/
def State.answer (s : State) (a : Answer Number) : State := { s with toBlockState := a.1, result := a.2 }

/-- The reset event of R300: every state element takes its value of R40 and the configuration stays. The inputs not yet
taken are the environment's and stay (log 14). -/
def State.afterReset (s : State) : State := s.answer (BlockState.resetWith s.cfg, .idle)

/-- The next input of the environment and the state without it; none when nothing is pending (log 4, log 13). -/
def State.fetch (s : State) : Option (Input × State) :=
  match s.inbox with
  | [] => none
  | i :: rest => some (i, { s with inbox := rest })

/-- The decoder's position under the record of the machine. -/
def State.decPos (s : State) : DecPos := s.toBlockState.decPos s.cfg

/-- What a word that selects no operation is answered with (R99 (f), U7, U8). -/
def refusalOf : DecodeError → RefusedBecause
  | .noOperation op => .noOperation op
  | .operandShape _ => .operandShape

/-- The three agents of R286. -/
inductive Agent
  | prod | cons | dev
deriving DecidableEq, Repr

/-- The agent that issues an instruction (R286); the packets and wire bytes are the device side's. -/
def agentOf : Instr K → Agent
  | .saProcess _ => .prod
  | .lmProcess _ _ => .prod
  | .wtProcess _ => .prod
  | .encEncode _ _ _ _ _ _ _ _ => .cons
  | .decFeed _ => .dev
  | .decValidate _ => .dev
  | .fsPublish _ _ _ => .prod
  | .fsTick _ => .cons
  | .pktV116 _ _ _ _ _ _ _ => .dev
  | .pktV112 _ _ _ _ _ _ => .dev
  | .pktV59 _ _ _ _ _ => .dev
  | .decS0Sync0 => .dev
  | .decS0Other _ => .dev
  | .decS1Sync1 => .dev
  | .decS1Sync0 => .dev
  | .decS1Other _ => .dev
  | .decS2Body _ => .dev
  | .decS2Check _ => .dev

/-- The units that have operations (R5, R41); the packets and wire bytes are the decoder's. -/
inductive BlockUnit
  | sa | lm | wt | enc | dec | fs
deriving DecidableEq, Repr

/-- The unit an instruction belongs to (R5): it reads and writes only this unit's state (R41). -/
def unitOf : Instr K → BlockUnit
  | .saProcess _ => .sa
  | .lmProcess _ _ => .lm
  | .wtProcess _ => .wt
  | .encEncode _ _ _ _ _ _ _ _ => .enc
  | .decFeed _ => .dec
  | .decValidate _ => .dec
  | .fsPublish _ _ _ => .fs
  | .fsTick _ => .fs
  | .pktV116 _ _ _ _ _ _ _ => .dec
  | .pktV112 _ _ _ _ _ _ => .dec
  | .pktV59 _ _ _ _ _ => .dec
  | .decS0Sync0 => .dec
  | .decS0Other _ => .dec
  | .decS1Sync1 => .dec
  | .decS1Sync0 => .dec
  | .decS1Other _ => .dec
  | .decS2Body _ => .dec
  | .decS2Check _ => .dec

end Sys2Proof.Machine
end

