-- ==== Sys2Proof/Machine/Operands.lean ====
section
/-!
DEFINITION. The operand forms: the length conditions of the block operands (R151, R171, R197) and of the slot arrays
(R251), the clamp and the sections of the encoder's byte operands (R95, R212, R213), and the pseudo-operations of R104 that rewrite operands.
-/

namespace Sys2Proof.Machine

/-- A block operand has the required length `NB` (R61, R151). -/
def blockFits {K : Type} (c : ConfigOf K) (blk : List K) : Bool := decide (blk.length = c.nb)

/-- The slot arrays have the lengths `N_BANDS` and `SCOPE_COLS` of R251. -/
def slotArraysFit {K : Type} (c : ConfigOf K) (bars scope : List Byte) : Bool :=
  decide (bars.length = c.nBands) && decide (scope.length = c.scopeCols)

/-- `min(v, limit)` on bytes (R95, R213). -/
def clampByte (v limit : Byte) : Byte := if v.toNat ≤ limit.toNat then v else limit

/-- An optional section: the clamped operand when it is enabled, zeros otherwise (R95, R212). -/
def sectionBytes (enabled : Bool) (limit : Byte) (operand : List Byte) : List Byte :=
  if enabled then operand.map fun v => clampByte v limit else List.replicate operand.length 0

/-- `ENC.ENCODE … scope=None, vu=None` (R104): both enable bits 0; the ignored operands are zeros. -/
def encodeBarsOnly {K : Type} (f : WireFormat) (boardId frameSeq brightness : Byte) (bars : List Byte) : Instr K :=
  .encEncode boardId frameSeq brightness bars false (List.replicate f.scopePerPkt 0) false (List.replicate f.vuPerPkt 0)

/-- A Frame is "encodable this way" for board number `k` (R256): `N_BANDS` is a multiple of the bars per packet, `k` is a board of it,
`SCOPE_COLS` is the scope values per packet and the four VU values are what a packet carries. `k < 256` is the model's (log 21):
`board_id` is a byte, and R256, which sets `board_id = k`, does not say what a larger board number gives. -/
def frameEncodable (w : WireFormat) (k : Nat) (f : Frame) : Bool :=
  decide (f.bars.length % w.barsPerPkt = 0) && decide (w.barsPerPkt * k + w.barsPerPkt ≤ f.bars.length) &&
    decide (f.scope.length = w.scopePerPkt) && decide (w.vuPerPkt = 4) && decide (k < 256)

/-- `ENC.FRAME board, frame` (R104, R256): the encode operation for board number `k` of a Frame. A frame that R256 does not call
encodable has none: no operation is issued (log 21, DESIGN CHOICE; R256 gives no packet for it). -/
def encodeFrame {K : Type} (w : WireFormat) (k : Nat) (f : Frame) : Option (Instr K) :=
  if frameEncodable w k f then
    some (.encEncode (BitVec.ofNat 8 k) f.frameSeq f.brightness (bytesAt w.barsPerPkt (w.barsPerPkt * k) f.bars) true f.scope
      true f.vu.toList)
  else none

/-- `DEC.FEEDN bytes` (R104): one wire byte after another, as inputs. -/
def feedInputs {K : Type} (bytes : List Byte) : List (Input K) := bytes.map fun b => .word (.wire b)

end Sys2Proof.Machine
end

