-- ==== Sys2Proof/Machine/Wire.lean ====
section
/-!
DEFINITION. What the encoder and the decoder share: the XOR checksum (R94), the extraction of a frame from a body
(R231), and the test of a whole packet (R232).
-/

namespace Sys2Proof.Machine

/-- `XOR(seq)` of R10 and R94: the fold of exclusive-or from 0x00. -/
def xorBytes : List Byte → Byte
  | [] => 0
  | b :: bs => b ^^^ xorBytes bs

/-- `parse(body)` of R231: the fields by position, delivered as received. -/
def parseBody (f : WireFormat) (v : Variant) (body : List Byte) : DecodedFrame where
  boardId := body.getD 0 0
  frameSeq := body.getD 1 0
  brightness := body.getD 2 0
  bars := bytesAt f.barsPerPkt 3 body
  scope := if v.hasScope then some (bytesAt f.scopePerPkt (3 + f.barsPerPkt) body) else none
  vu := if v.hasVu then some (bytesAt f.vuPerPkt (3 + f.barsPerPkt + f.scopePerPkt) body) else none

/-- The body of a packet: `PKT[2 : 2 + BODY_LEN]` (R94, R232). -/
def packetBody (f : WireFormat) (v : Variant) (buf : List Byte) : List Byte := bytesAt (f.bodyLen v) 2 buf

/-- `DEC.VALIDATE(buf)` of R232: size, sync marker and checksum, and the frame when all three hold. -/
def validatePacket (f : WireFormat) (v : Variant) (buf : List Byte) : Option DecodedFrame :=
  if buf.length ≠ f.pktLen v then none
  else if buf.getD 0 0 ≠ f.sync0 ∨ buf.getD 1 0 ≠ f.sync1 then none
  else if xorBytes (packetBody f v buf) ≠ buf.getD (f.pktLen v - 1) 0 then none
  else some (parseBody f v (packetBody f v buf))

/-- A datagram reaches the one-shot validator: the frame or none, and no state of the block changes (R232). -/
def BlockState.receiveDatagram {K : Type} (c : ConfigOf K) (buf : List Byte) (b : BlockState K) : Answer K :=
  b.reply (.validated (validatePacket c.wire c.decVariant buf))

end Sys2Proof.Machine
end

