-- ==== Sys2Proof/Machine/Decoder.lean ====
section
/-!
DEFINITION. `DEC.FEED` and `DEC.VALIDATE` (`45_packet_decoder.md`, R225 to R232).
-/

namespace Sys2Proof.Machine

/-- `MemWrite(DEC.buf, DEC.cur, b); DEC.cur <- DEC.cur + 1` (R229). -/
def DecState.append (d : DecState) (b : Byte) : DecState := { d with buf := d.buf.set d.cur b, cur := d.cur + 1 }

/-- The completed buffer's XOR equals its last byte (R230). -/
def DecState.checksumOk (f : WireFormat) (v : Variant) (d : DecState) : Bool :=
  xorBytes (d.buf.take (f.bodyLen v)) == d.buf.getD (f.bodyLen v) 0

/-- What a completed buffer emits (R230, R231). -/
def DecState.emitted (f : WireFormat) (v : Variant) (d : DecState) : List DecodedFrame :=
  if d.checksumOk f v then [parseBody f v (d.buf.take (f.bodyLen v))] else []

/-- `DEC.FEED(b)`: the pseudocode of R225, one byte of the streaming state machine. -/
def decFeed (f : WireFormat) (v : Variant) (d : DecState) (b : Byte) : DecState × List DecodedFrame :=
  match d.st with
  | .s0 => (if b = f.sync0 then { d with st := .s1 } else d, [])
  | .s1 =>
    (if b = f.sync1 then { d with st := .s2, cur := 0 }
     else if b = f.sync0 then d
     else { d with st := .s0 }, [])
  | .s2 =>
    if (d.append b).cur < f.bodyLen v + 1 then (d.append b, [])
    else ({ d.append b with st := .s0 }, (d.append b).emitted f v)

/-- `DEC.FEEDN bytes` of R104: the fold of `DEC.FEED`, its results joined in order. -/
def decFeedAll (f : WireFormat) (v : Variant) (d : DecState) : List Byte → DecState × List DecodedFrame
  | [] => (d, [])
  | b :: bs => ((decFeedAll f v (decFeed f v d b).1 bs).1, (decFeed f v d b).2 ++ (decFeedAll f v (decFeed f v d b).1 bs).2)

variable {K : Type}

/-- The state after one byte has been fed to the streaming decoder. -/
def BlockState.feedByte (c : ConfigOf K) (x : Byte) (b : BlockState K) : Answer K :=
  ({ b with dec := (decFeed c.wire c.decVariant b.dec x).1 }, .frames (decFeed c.wire c.decVariant b.dec x).2)

/-- `DEC.FEED` of one byte (R225). -/
def BlockState.feed (c : ConfigOf K) (x : Byte) (b : BlockState K) : Answer K := b.feedByte c x

/-- `DEC.FEED b` in the machine (R225). -/
def execDecFeed (b : Byte) (s : State) : Result := .next (s.answer (s.feed s.cfg b))

/-- `DEC.VALIDATE buf` (R232). -/
def BlockState.decValidate (c : ConfigOf K) (buf : List Byte) (b : BlockState K) : Answer K := b.receiveDatagram c buf

/-- `DEC.VALIDATE buf` in the machine (R232). -/
def execDecValidate (buf : List Byte) (s : State) : Result := .next (s.answer (s.decValidate s.cfg buf))

end Sys2Proof.Machine
end

