-- ==== Sys2Proof/Machine/ByteClasses.lean ====
section
/-!
DEFINITION. The seven decoder byte-class rows of R98, each written from its own rule (R226 to R230). A row's instruction
given to a decoder that is not at the row's position is still that wire byte, and is read as R225 reads it there (log 9);
`step` never selects a row off its position.
-/

namespace Sys2Proof.Machine

variable {K : Type}

/-- The decoder moves to `d` and returns the frames `fs`. -/
def BlockState.decoded (b : BlockState K) (d : DecState) (fs : List DecodedFrame) : Answer K := ({ b with dec := d }, .frames fs)

/-- A row's own effect where the decoder stands at its position and the byte is of its class, else the byte is fed. -/
def BlockState.byteClass (c : ConfigOf K) (b : BlockState K) (selected : Bool) (x : Byte) (d : DecState) (fs : List DecodedFrame) :
    Answer K :=
  match selected with
  | true => b.decoded d fs
  | false => b.feedByte c x

/-- `DEC.S0.SYNC0` (R226): to S1. -/
def BlockState.decS0Sync0 (c : ConfigOf K) (b : BlockState K) : Answer K :=
  b.byteClass c (b.decPos c == .s0) c.wire.sync0 { b.dec with st := .s1 } []

/-- `DEC.S0.SYNC0` in the machine (R226). -/
def execDecS0Sync0 (s : State) : Result := .next (s.answer (s.decS0Sync0 s.cfg))

/-- `DEC.S0.OTHER` (R226): stay in S0, the byte is dropped. -/
def BlockState.decS0Other (c : ConfigOf K) (x : Byte) (b : BlockState K) : Answer K :=
  b.byteClass c (b.decPos c == .s0 && x != c.wire.sync0) x b.dec []

/-- `DEC.S0.OTHER` in the machine (R226). -/
def execDecS0Other (b : Byte) (s : State) : Result := .next (s.answer (s.decS0Other s.cfg b))

/-- `DEC.S1.SYNC1` (R227): to S2, the cursor reset. -/
def BlockState.decS1Sync1 (c : ConfigOf K) (b : BlockState K) : Answer K :=
  b.byteClass c (b.decPos c == .s1) c.wire.sync1 { b.dec with st := .s2, cur := 0 } []

/-- `DEC.S1.SYNC1` in the machine (R227). -/
def execDecS1Sync1 (s : State) : Result := .next (s.answer (s.decS1Sync1 s.cfg))

/-- `DEC.S1.SYNC0` (R228): stay in S1. The row of `SYNC1` is compared first (R225), so this one is there when the two bytes differ. -/
def BlockState.decS1Sync0 (c : ConfigOf K) (b : BlockState K) : Answer K :=
  b.byteClass c (b.decPos c == .s1 && c.wire.sync0 != c.wire.sync1) c.wire.sync0 b.dec []

/-- `DEC.S1.SYNC0` in the machine (R228). -/
def execDecS1Sync0 (s : State) : Result := .next (s.answer (s.decS1Sync0 s.cfg))

/-- `DEC.S1.OTHER` (R228): to S0, the byte is dropped. -/
def BlockState.decS1Other (c : ConfigOf K) (x : Byte) (b : BlockState K) : Answer K :=
  b.byteClass c (b.decPos c == .s1 && x != c.wire.sync0 && x != c.wire.sync1) x { b.dec with st := .s0 } []

/-- `DEC.S1.OTHER` in the machine (R228). -/
def execDecS1Other (b : Byte) (s : State) : Result := .next (s.answer (s.decS1Other s.cfg b))

/-- `DEC.S2.BODY` (R229): the byte is stored at the cursor and the cursor advances; the decoder stays in S2. -/
def BlockState.decS2Body (c : ConfigOf K) (x : Byte) (b : BlockState K) : Answer K :=
  b.byteClass c (b.decPos c == .s2Body) x (b.dec.append x) []

/-- `DEC.S2.BODY` in the machine (R229). -/
def execDecS2Body (b : Byte) (s : State) : Result := .next (s.answer (s.decS2Body s.cfg b))

/-- `DEC.S2.CHECK` (R230): the byte completes the buffer; a frame on a match, nothing on a mismatch; to S0. -/
def BlockState.decS2Check (c : ConfigOf K) (x : Byte) (b : BlockState K) : Answer K :=
  b.byteClass c (b.decPos c == .s2Check) x { b.dec.append x with st := .s0 } ((b.dec.append x).emitted c.wire c.decVariant)

/-- `DEC.S2.CHECK` in the machine (R230). -/
def execDecS2Check (b : Byte) (s : State) : Result := .next (s.answer (s.decS2Check s.cfg b))

end Sys2Proof.Machine
end

