-- ==== Sys2Proof/Machine/Encoder.lean ====
section
/-!
DEFINITION. `ENC.ENCODE` (`44_packet_encoder.md`, R210 to R214). The encoder has no state.
-/

namespace Sys2Proof.Machine

/-- The body of R211 to R213: header bytes unchanged, arrays clamped, absent sections zero. -/
def encodeBody (f : WireFormat) (v : Variant) (boardId frameSeq brightness : Byte) (bars : List Byte) (scopeEn : Bool)
    (scope : List Byte) (vuEn : Bool) (vu : List Byte) : List Byte :=
  bodyOf v boardId frameSeq brightness (sectionBytes true f.barClamp bars) (sectionBytes scopeEn f.scopeClamp scope)
    (sectionBytes vuEn f.vuClamp vu)

/-- `pkt` of R210 and R214: sync marker, body, XOR of the body. -/
def encodePacket (f : WireFormat) (v : Variant) (boardId frameSeq brightness : Byte) (bars : List Byte) (scopeEn : Bool)
    (scope : List Byte) (vuEn : Bool) (vu : List Byte) : List Byte :=
  packetOf f (encodeBody f v boardId frameSeq brightness bars scopeEn scope vuEn vu)
    (xorBytes (encodeBody f v boardId frameSeq brightness bars scopeEn scope vuEn vu))

/-- `ENC.ENCODE` (R210). Arrays of other lengths than the counts per packet cannot be expressed on the port and are rejected (U7,
log 7). -/
def BlockState.encEncode {K : Type} (c : ConfigOf K) (boardId frameSeq brightness : Byte) (bars : List Byte) (scopeEn : Bool)
    (scope : List Byte) (vuEn : Bool) (vu : List Byte) (b : BlockState K) : Answer K :=
  if encoderArraysFit c.wire bars scope vu then
    b.reply (.packet (encodePacket c.wire c.encVariant boardId frameSeq brightness bars scopeEn scope vuEn vu))
  else b.reply (.refused .operandShape)

/-- `ENC.ENCODE` in the machine (R210). -/
def execEncEncode (boardId frameSeq brightness : Byte) (bars : List Byte) (scopeEn : Bool) (scope : List Byte) (vuEn : Bool)
    (vu : List Byte) (s : State) : Result :=
  .next (s.answer (s.encEncode s.cfg boardId frameSeq brightness bars scopeEn scope vuEn vu))

end Sys2Proof.Machine
end

