-- ==== Sys2Proof/Machine/FrameSlot.lean ====
section
/-!
DEFINITION. `FS.PUBLISH` and `FS.TICK` (`46_frame_slot.md`, R251, R252).
-/

namespace Sys2Proof.Machine

variable {K : Type}

/-- `FS.PUBLISH bars, scope, vu` (R251): the three arrays replaced in one step, `FS.seq` untouched. Arrays of other
lengths than the slot's cannot be expressed on the port and are rejected (U7, log 7). -/
def BlockState.fsPublish (c : ConfigOf K) (bars scope : List Byte) (vu : Vector Byte 4) (b : BlockState K) : Answer K :=
  if slotArraysFit c bars scope then ({ b with fs := { b.fs with bars := bars, scope := scope, vu := vu } }, .done)
  else b.reply (.refused .operandShape)

/-- `FS.PUBLISH bars, scope, vu` in the machine (R251). -/
def execFsPublish (bars scope : List Byte) (vu : Vector Byte 4) (s : State) : Result :=
  .next (s.answer (s.fsPublish s.cfg bars scope vu))

/-- The frame a tick returns (R252): copies of the slot, the sequence number before the increment. -/
def FsState.frame (fs : FsState) (brightness : Byte) : Frame where
  frameSeq := fs.seq
  brightness := brightness
  bars := fs.bars
  scope := fs.scope
  vu := fs.vu

/-- `FS.TICK brightness` (R252). -/
def BlockState.fsTick (brightness : Byte) (b : BlockState K) : Answer K :=
  ({ b with fs := { b.fs with seq := b.fs.seq + 1 } }, .frame (b.fs.frame brightness))

/-- `FS.TICK brightness` in the machine (R252). -/
def execFsTick (brightness : Byte) (s : State) : Result := .next (s.answer (s.fsTick brightness))

end Sys2Proof.Machine
end

