-- ==== Sys2Proof/Machine/Level.lean ====
section
/-!
DEFINITION. `LM.PROCESS` (`42_level_meter.md`, R170 to R177).
-/

namespace Sys2Proof.Machine

variable {K : Type} [Field K] [LinearOrder K]

/-- `r[c]` of R172: the RMS of a channel. -/
def rmsOf (f : NumFns K) (c : ConfigOf K) (x : List K) : K := f.sqrt (sumNums (x.map fun v => v * v) / (c.nb : K))

/-- `d[c]` of R172. -/
def channelLevel (f : NumFns K) (c : ConfigOf K) (x : List K) : K := toDb f c.magFloor (rmsOf f c x)

/-- The updated shared tracker of R173 from the two channel levels. -/
def lmTracked (c : ConfigOf K) (tp dLeft dRight : K) : K :=
  trackDb tp (max dLeft dRight) c.lmRise c.lmRelease c.lmDbFloor

/-- The display window of R173, from the updated tracker. -/
def lmWindow (c : ConfigOf K) (tp : K) : Window K := displayWindow tp c.lmHeadroomDb c.lmRangeDb c.lmDbFloor

/-- The target of R174. -/
def lmTarget (c : ConfigOf K) (w : Window K) (d : K) : K := norm01 d w * c.vuMax

/-- The RMS series of R175. -/
def lmRmsNext (c : ConfigOf K) (rms t : K) : K := smooth rms t c.lmRmsAttack c.lmRmsDecay

/-- The peak-hold series of R176: attack toward the target, or a fixed drop. -/
def lmPeakNext (c : ConfigOf K) (peak t : K) : K :=
  if t ≥ peak then peak + c.lmPeakAttack * (t - peak) else peak - c.lmPeakDrop * c.vuMax

/-- `out(v)` of R177. -/
def lmOut [FloorRing K] (c : ConfigOf K) (v : K) : Int := clampInt (rne v) 0 c.vuMax

/-- The state after the operation, from the two channel levels (R173 to R176). -/
def lmUpdate (c : ConfigOf K) (dLeft dRight : K) (lm : LmState K) : LmState K :=
  let tp := lmTracked c lm.tp dLeft dRight
  let tLeft := lmTarget c (lmWindow c tp) dLeft
  let tRight := lmTarget c (lmWindow c tp) dRight
  { lm with
    tp := tp
    rms := ⟨lmRmsNext c lm.rms.left tLeft, lmRmsNext c lm.rms.right tRight⟩
    peak := ⟨lmPeakNext c lm.peak.left tLeft, lmPeakNext c lm.peak.right tRight⟩ }

/-- The result of R177. -/
def lmLevels [FloorRing K] (c : ConfigOf K) (lm : LmState K) : Response :=
  .levels (lmOut c lm.rms.left) (lmOut c lm.peak.left) (lmOut c lm.rms.right) (lmOut c lm.peak.right)

/-- The operation on blocks of the required length, its channel levels given. -/
def BlockState.lmProcessed [FloorRing K] (c : ConfigOf K) (dLeft dRight : K) (b : BlockState K) : Answer K :=
  ({ b with lm := lmUpdate c dLeft dRight b.lm }, lmLevels c (lmUpdate c dLeft dRight b.lm))

/-- `LM.PROCESS left, right` (R170); either operand of a wrong length raises the exception (R171). -/
def BlockState.lmProcess [FloorRing K] (f : NumFns K) (c : ConfigOf K) (left right : List K) (b : BlockState K) : Answer K :=
  b.runAnalyzer .lm (blockFits c left && blockFits c right)
    (BlockState.lmProcessed c (channelLevel f c left) (channelLevel f c right))

/-- `LM.PROCESS left, right` in the machine (R170). -/
def execLmProcess (left right : List Number) (s : State) : Result :=
  .next (s.answer (s.lmProcess s.cfg.fns s.cfg left right))

end Sys2Proof.Machine
end

