-- ==== Sys2Proof/Machine/Packets.lean ====
section
/-!
DEFINITION. The packet-format rows of the opcode table (R91 to R93): a datagram of that format reaches the receiver, which
reads it with the one-shot validator (R60, R66, R232; log 8). A receiver constructed with another variant finds the
wrong size and drops it (R97, R232).
-/

namespace Sys2Proof.Machine

variable {K : Type}

/-- `PKT.V116` (R91): 116 bytes with the default counts. -/
def BlockState.pktV116 (c : ConfigOf K) (boardId frameSeq brightness : Byte) (bars scope vu : List Byte) (checksum : Byte)
    (b : BlockState K) : Answer K :=
  b.receiveDatagram c (packetOf c.wire (bodyOf .v116 boardId frameSeq brightness bars scope vu) checksum)

/-- `PKT.V116` in the machine (R91). -/
def execPktV116 (boardId frameSeq brightness : Byte) (bars scope vu : List Byte) (checksum : Byte) (s : State) : Result :=
  .next (s.answer (s.pktV116 s.cfg boardId frameSeq brightness bars scope vu checksum))

/-- `PKT.V112` (R92): 112 bytes with the default counts. -/
def BlockState.pktV112 (c : ConfigOf K) (boardId frameSeq brightness : Byte) (bars scope : List Byte) (checksum : Byte)
    (b : BlockState K) : Answer K :=
  b.receiveDatagram c (packetOf c.wire (bodyOf .v112 boardId frameSeq brightness bars scope []) checksum)

/-- `PKT.V112` in the machine (R92). -/
def execPktV112 (boardId frameSeq brightness : Byte) (bars scope : List Byte) (checksum : Byte) (s : State) : Result :=
  .next (s.answer (s.pktV112 s.cfg boardId frameSeq brightness bars scope checksum))

/-- `PKT.V59` (R93): 59 bytes with the default counts. -/
def BlockState.pktV59 (c : ConfigOf K) (boardId frameSeq brightness : Byte) (bars : List Byte) (checksum : Byte)
    (b : BlockState K) : Answer K :=
  b.receiveDatagram c (packetOf c.wire (bodyOf .v59 boardId frameSeq brightness bars [] []) checksum)

/-- `PKT.V59` in the machine (R93). -/
def execPktV59 (boardId frameSeq brightness : Byte) (bars : List Byte) (checksum : Byte) (s : State) : Result :=
  .next (s.answer (s.pktV59 s.cfg boardId frameSeq brightness bars checksum))

end Sys2Proof.Machine
end

