-- ==== Sys2Proof/Machine/Spectrum.lean ====
section
/-!
DEFINITION. `SA.PROCESS` (`41_spectrum_analyzer.md`, R150 to R158).
-/

namespace Sys2Proof.Machine

variable {K : Type} [Field K] [LinearOrder K]

/-- `xw` of R152: the block multiplied element by element by the window table. -/
def windowedBlock (c : ConfigOf K) (blk : List K) : List K := List.zipWith (fun x w => x * w) blk c.win

/-- `bm` of R153: the mean magnitude of each band. -/
def bandMeans (c : ConfigOf K) (mag : List K) : List K :=
  (List.range c.nBands).map fun i => meanSlice mag (span c.edges i)

/-- `d` of R152 to R154: the dB level of each band of a block. -/
def bandLevels (f : NumFns K) (c : ConfigOf K) (blk : List K) : List K :=
  (bandMeans c (rfftMag f c.nb (windowedBlock c blk))).map (toDb f c.magFloor)

/-- The updated tracker of R155. -/
def saTracked (c : ConfigOf K) (tp : K) (d : List K) : K :=
  trackDb tp (maxNums d) c.saRise c.saRelease c.saDbFloor

/-- The display window of R155, from the updated tracker. -/
def saWindow (c : ConfigOf K) (tp : K) : Window K := displayWindow tp c.saHeadroomDb c.saRangeDb c.saDbFloor

/-- The target height of R156. -/
def saTarget (c : ConfigOf K) (w : Window K) (d : K) : K := norm01 d w * c.maxHeight

/-- Steps 5 to 7 (R155 to R157) from the band levels `d`. -/
def saUpdate (c : ConfigOf K) (d : List K) (sa : SaState K) : SaState K :=
  { sa with
    tp := saTracked c sa.tp d
    cur := List.zipWith (fun cur di => smooth cur (saTarget c (saWindow c (saTracked c sa.tp d)) di) c.saAttack c.saDecay)
      sa.cur d }

/-- Step 8 (R158): the rounded heights; the state keeps the fractions. -/
def saBars [FloorRing K] (sa : SaState K) : List Int := sa.cur.map rne

/-- The operation on a block of the required length, its band levels given. -/
def BlockState.saProcessed [FloorRing K] (c : ConfigOf K) (d : List K) (b : BlockState K) : Answer K :=
  ({ b with sa := saUpdate c d b.sa }, .bars (saBars (saUpdate c d b.sa)))

/-- `SA.PROCESS blk` (R150). -/
def BlockState.saProcess [FloorRing K] (f : NumFns K) (c : ConfigOf K) (blk : List K) (b : BlockState K) : Answer K :=
  b.runAnalyzer .sa (blockFits c blk) (BlockState.saProcessed c (bandLevels f c blk))

/-- `SA.PROCESS blk` in the machine (R150). -/
def execSaProcess (blk : List Number) (s : State) : Result := .next (s.answer (s.saProcess s.cfg.fns s.cfg blk))

end Sys2Proof.Machine
end

