-- ==== Sys2Proof/Machine/Waveform.lean ====
section
/-!
DEFINITION. `WT.PROCESS` (`43_waveform_tracer.md`, R190 to R197).
-/

namespace Sys2Proof.Machine

variable {K : Type} [Field K] [LinearOrder K]

/-- A rising zero crossing at index `i` (R191). -/
def risesAt (blk : List K) (i : Nat) : Bool := decide (blk.getD (i - 1) 0 ≤ 0) && decide (blk.getD i 0 > 0)

/-- `trig` of R191: the first of the indices `1 .. NB/4 - 1` with a rising zero crossing, or 0. -/
def triggerIndex (c : ConfigOf K) (blk : List K) : Nat :=
  ((List.range' 1 (c.nb / 4 - 1)).find? (risesAt blk)).getD 0

/-- `seg` of R192: half a block from the trigger, cut at the block's end, zero-padded to at least `SCOPE_COLS`. -/
def segmentOf (c : ConfigOf K) (blk : List K) (trig : Nat) : List K :=
  let seg := (blk.drop trig).take (min (trig + c.nb / 2) c.nb - trig)
  seg ++ List.replicate (c.scopeCols - seg.length) 0

/-- `pos_j` of R193. -/
def resamplePos (cols len j : Nat) : K :=
  if cols = 1 then 0 else ((j * (len - 1) : Nat) : K) / ((cols - 1 : Nat) : K)

/-- Linear interpolation in `seg` at the fractional index `pos` (R193). -/
def interpolate [FloorRing K] (seg : List K) (pos : K) : K :=
  let i0 := ⌊pos⌋.toNat
  let fr := pos - (i0 : K)
  if fr = 0 then seg.getD i0 0 else seg.getD i0 0 * (1 - fr) + seg.getD (i0 + 1) 0 * fr

/-- `y` of R193: the segment resampled to `SCOPE_COLS` points. -/
def resample [FloorRing K] (c : ConfigOf K) (seg : List K) : List K :=
  (List.range c.scopeCols).map fun j => interpolate seg (resamplePos c.scopeCols seg.length j)

/-- The resampled trace of a block (R191 to R193). -/
def traceOf [FloorRing K] (c : ConfigOf K) (blk : List K) : List K := resample c (segmentOf c blk (triggerIndex c blk))

/-- `pk` of R194. -/
def peakOf (y : List K) : K := maxNums (y.map fun v => |v|)

/-- The updated gain tracker of R195. -/
def wtTracked (c : ConfigOf K) (tp : K) (y : List K) : K := max (track tp (peakOf y) c.wtRise c.wtRelease) c.wtMinAmp

/-- The trace position of R196 for the point `y` under the gain reference `tp`. -/
def positionOf [FloorRing K] (c : ConfigOf K) (tp y : K) : Int :=
  clampInt (trunc ((clamp (y / tp) (-1) 1 + 1) / 2 * c.maxY)) 0 c.maxY

/-- The operation on a block of the required length, its resampled trace given (R195, R196). -/
def BlockState.wtProcessed [FloorRing K] (c : ConfigOf K) (y : List K) (b : BlockState K) : Answer K :=
  ({ b with wt := { b.wt with tp := wtTracked c b.wt.tp y } }, .trace (y.map (positionOf c (wtTracked c b.wt.tp y))))

/-- `WT.PROCESS blk` (R190). -/
def BlockState.wtProcess [FloorRing K] (c : ConfigOf K) (blk : List K) (b : BlockState K) : Answer K :=
  b.runAnalyzer .wt (blockFits c blk) (BlockState.wtProcessed c (traceOf c blk))

/-- `WT.PROCESS blk` in the machine (R190). -/
def execWtProcess (blk : List Number) (s : State) : Result := .next (s.answer (s.wtProcess s.cfg blk))

end Sys2Proof.Machine
end

