-- ==== Sys2Proof/Machine/Dispatch.lean ====
section
/-!
DEFINITION. The meaning of every instruction: one arm per constructor of `Instr`, each one call of its meaning.
-/

namespace Sys2Proof.Machine

def exec (i : Instr) (s : State) : Host.Outcome State Fault Refusal :=
  match i with
  | .saProcess blk => Sys2Proof.Machine.execSaProcess blk s
  | .lmProcess left right => Sys2Proof.Machine.execLmProcess left right s
  | .wtProcess blk => Sys2Proof.Machine.execWtProcess blk s
  | .encEncode boardId frameSeq brightness bars scopeEn scope vuEn vu => Sys2Proof.Machine.execEncEncode boardId frameSeq brightness bars scopeEn scope vuEn vu s
  | .decFeed b => Sys2Proof.Machine.execDecFeed b s
  | .decValidate buf => Sys2Proof.Machine.execDecValidate buf s
  | .fsPublish bars scope vu => Sys2Proof.Machine.execFsPublish bars scope vu s
  | .fsTick brightness => Sys2Proof.Machine.execFsTick brightness s
  | .pktV116 boardId frameSeq brightness bars scope vu checksum => Sys2Proof.Machine.execPktV116 boardId frameSeq brightness bars scope vu checksum s
  | .pktV112 boardId frameSeq brightness bars scope checksum => Sys2Proof.Machine.execPktV112 boardId frameSeq brightness bars scope checksum s
  | .pktV59 boardId frameSeq brightness bars checksum => Sys2Proof.Machine.execPktV59 boardId frameSeq brightness bars checksum s
  | .decS0Sync0 => Sys2Proof.Machine.execDecS0Sync0 s
  | .decS0Other b => Sys2Proof.Machine.execDecS0Other b s
  | .decS1Sync1 => Sys2Proof.Machine.execDecS1Sync1 s
  | .decS1Sync0 => Sys2Proof.Machine.execDecS1Sync0 s
  | .decS1Other b => Sys2Proof.Machine.execDecS1Other b s
  | .decS2Body b => Sys2Proof.Machine.execDecS2Body b s
  | .decS2Check b => Sys2Proof.Machine.execDecS2Check b s

end Sys2Proof.Machine
end

