-- ==== Sys2Proof/Machine/Step.lean ====
section
/-!
DEFINITION. One step of the block: the next input of the environment is taken and its operation runs as one atomic step
(R5, R74, R78). Where the host puts a word for the next step to run.
-/

namespace Sys2Proof.Machine

/-- The step on an input already taken: an instruction word is decoded at the decoder's position and executed; a word
that selects no operation changes no state (R99 (f), U8); `RESET` is R300. -/
def stepInput (input : Input) (s : State) : Host.Outcome State Fault Refusal :=
  match input with
  | .reset => .next s.afterReset
  | .word w =>
    match decode s.cfg.wire s.decPos w with
    | .ok i => exec i s
    | .error e => .next (s.answer (s.reply (.refused (refusalOf e))))

/-- One step. A block with an invalid configuration cannot be constructed (U4, R302); with no input pending nothing
happens (R301: "the block executes nothing by itself"; log 13). -/
def step (s : State) : Host.Outcome State Fault Refusal :=
  if s.cfg.isValid then
    match s.fetch with
    | none => .next s
    | some (input, s') => stepInput input s'
  else .refused .invalidConfiguration

/-- The decoder's state register at which a table word is read (log 15). -/
def fetchSt (c : Config) (nbits w : Nat) (d : DecState) : DecState :=
  match tableWord c nbits w with
  | .wire b => if b = c.wire.sync1 then { d with st := .s1 } else { d with st := .s0 }
  | .command _ => d
  | .datagram _ => d

/-- `s` with the table word `w` of `nbits` bits as its next input; for a wire byte the decoder stands where the row is
read (log 15). Nothing else changes. -/
def State.withFetchWord (s : State) (nbits w : Nat) : State :=
  { s with inbox := .word (tableWord s.cfg nbits w) :: s.inbox, dec := fetchSt s.cfg nbits w s.dec }

end Sys2Proof.Machine
end

