-- ==== Sys2Proof/Machine/Block.lean ====
section
/-!
DEFINITION. The block as the spec writes it: operations over the numbers `K`, the configuration record and its numerics as parameters of
the step function and not as state (R37), inputs from outside and results to the issuer (R5, R34). Over the real numbers with
the exact functions it is the machine of R9, D3 and R121; the host's machine is the same operations over its own numbers
(logs 1, 2, 4, 5).
-/

namespace Sys2Proof.Machine

variable {K : Type} [Field K] [LinearOrder K] [FloorRing K]

/-- One operation (R5): the state elements after it and its result. -/
def BlockState.exec (f : NumFns K) (c : ConfigOf K) (i : Instr K) (b : BlockState K) : Answer K :=
  match i with
  | .saProcess blk => b.saProcess f c blk
  | .lmProcess left right => b.lmProcess f c left right
  | .wtProcess blk => b.wtProcess c blk
  | .encEncode boardId frameSeq brightness bars scopeEn scope vuEn vu =>
    b.encEncode c boardId frameSeq brightness bars scopeEn scope vuEn vu
  | .decFeed x => b.feed c x
  | .decValidate buf => b.decValidate c buf
  | .fsPublish bars scope vu => b.fsPublish c bars scope vu
  | .fsTick brightness => b.fsTick brightness
  | .pktV116 boardId frameSeq brightness bars scope vu checksum => b.pktV116 c boardId frameSeq brightness bars scope vu checksum
  | .pktV112 boardId frameSeq brightness bars scope checksum => b.pktV112 c boardId frameSeq brightness bars scope checksum
  | .pktV59 boardId frameSeq brightness bars checksum => b.pktV59 c boardId frameSeq brightness bars checksum
  | .decS0Sync0 => b.decS0Sync0 c
  | .decS0Other x => b.decS0Other c x
  | .decS1Sync1 => b.decS1Sync1 c
  | .decS1Sync0 => b.decS1Sync0 c
  | .decS1Other x => b.decS1Other c x
  | .decS2Body x => b.decS2Body c x
  | .decS2Check x => b.decS2Check c x

/-- One step on an input (R74): `RESET` (R300), or a word decoded at the decoder's position; a word that selects no operation
changes no state (R99 (f), U8). The record `c` is to be valid (R302). -/
def BlockState.step (f : NumFns K) (c : ConfigOf K) (input : Input K) (b : BlockState K) : Answer K :=
  match input with
  | .reset => (BlockState.resetWith c, .idle)
  | .word w =>
    match decode c.wire (b.decPos c) w with
    | .ok i => b.exec f c i
    | .error e => b.reply (.refused (refusalOf e))

/-- The step of the spec's own machine (R9, D3, R37, R121): samples, constants and state are real numbers, `log10`, `sqrt`, `sin` and
`cos` the exact functions, and the record is a parameter. -/
noncomputable def exactStep (c : ConfigOf ℝ) : Input ℝ → BlockState ℝ → Answer ℝ := BlockState.step NumFns.exact c

end Sys2Proof.Machine
end

