-- ==== Sys2Proof/Safety.lean ====
section
/-!
DEFINITION. What a good state is: the ranges and lengths R20 to R31 give every state element (`BlockState.Inv`, `State.Inv`), and that no
unit has met its fatal exception (`BlockState.Good`, R273: "the faulted state is never a good final state").
-/

namespace Sys2Proof.Machine

variable {K : Type} [Field K] [LinearOrder K]

/-- R21, R22: the tracker at or above its floor, one bar per band, each in `[0, MAX_HEIGHT]`. -/
def SaState.Inv (c : ConfigOf K) (sa : SaState K) : Prop :=
  c.saDbFloor ≤ sa.tp ∧ sa.cur.length = c.nBands ∧ ∀ x ∈ sa.cur, 0 ≤ x ∧ x ≤ (c.maxHeight : K)

/-- R24: an RMS column in `[0, VU_MAX]`. -/
def RmsInv (c : ConfigOf K) (x : K) : Prop := 0 ≤ x ∧ x ≤ (c.vuMax : K)

/-- R25: a peak column above `-LM_PEAK_DROP * VU_MAX` and at most `VU_MAX`; with `VU_MAX = 0` it is 0. -/
def PeakInv (c : ConfigOf K) (x : K) : Prop :=
  (-(c.lmPeakDrop * c.vuMax) < x ∨ x = 0) ∧ x ≤ (c.vuMax : K)

/-- R23 to R25. -/
def LmState.Inv (c : ConfigOf K) (lm : LmState K) : Prop :=
  c.lmDbFloor ≤ lm.tp ∧ RmsInv c lm.rms.left ∧ RmsInv c lm.rms.right ∧ PeakInv c lm.peak.left ∧ PeakInv c lm.peak.right

/-- R26. -/
def WtState.Inv (c : ConfigOf K) (wt : WtState K) : Prop := c.wtMinAmp ≤ wt.tp

/-- R28, R29: the buffer has `BODY_LEN + 1` bytes; the cursor is at most `BODY_LEN + 1`, and at most `BODY_LEN` in S2. -/
def DecState.Inv (c : ConfigOf K) (d : DecState) : Prop :=
  d.buf.length = c.wire.bodyLen c.decVariant + 1 ∧ d.cur ≤ c.wire.bodyLen c.decVariant + 1 ∧
  (d.st = .s2 → d.cur ≤ c.wire.bodyLen c.decVariant)

/-- R30: the lengths of the slot arrays. -/
def FsState.Inv (c : ConfigOf K) (fs : FsState) : Prop := fs.bars.length = c.nBands ∧ fs.scope.length = c.scopeCols

/-- Every state element is in its declared range (R21 to R30). -/
def BlockState.Inv (c : ConfigOf K) (b : BlockState K) : Prop :=
  b.sa.Inv c ∧ b.lm.Inv c ∧ b.wt.Inv c ∧ b.dec.Inv c ∧ b.fs.Inv c

/-- The invariant of the machine: a valid configuration (R302) and every state element in its declared range. -/
def State.Inv (s : State) : Prop := s.cfg.Valid ∧ s.toBlockState.Inv s.cfg

/-- No analyzer has raised its fatal exception (R273, R274). -/
def BlockState.Good {K : Type} (b : BlockState K) : Prop := ∀ u : Analyzer, b.faulted u = false

/-- A run is safe as long as its states are good: `s` steps to a good state. -/
def SafeStep (s : State) : Prop := ∃ t, step s = .next t ∧ t.Good

end Sys2Proof.Machine
end

