-- ==== Sys2Proof/WellFormed.lean ====
section
/-!
DEFINITION. Which instructions are well formed: the operand lengths that depend on the configuration (R91 to R93, R210, R251), and the
byte classes of R98 ("anything else" excludes the bytes of the rows above it). With the defaults of R7 the three formats have
three lengths and the two sync bytes differ; a record in which they do not leaves the later of two equal rows empty. A block of a
wrong length is not ill formed: it is a legal operand that raises `BlockLength` (R270).
-/

namespace Sys2Proof

/-- The well-formedness of an instruction under a configuration. -/
def Instr.wellFormed {K : Type} (c : ConfigOf K) : Instr K → Bool
  | .saProcess _ => true
  | .lmProcess _ _ => true
  | .wtProcess _ => true
  | .encEncode _ _ _ bars _ scope _ vu => encoderArraysFit c.wire bars scope vu
  | .decFeed _ => true
  | .decValidate _ => true
  | .fsPublish bars scope _ => decide (bars.length = c.nBands) && decide (scope.length = c.scopeCols)
  | .fsTick _ => true
  | .pktV116 _ _ _ bars scope vu _ => encoderArraysFit c.wire bars scope vu
  | .pktV112 _ _ _ bars scope _ =>
    decide (bars.length = c.wire.barsPerPkt) && decide (scope.length = c.wire.scopePerPkt) &&
      decide (c.wire.pktLen .v112 ≠ c.wire.pktLen .v116)
  | .pktV59 _ _ _ bars _ =>
    decide (bars.length = c.wire.barsPerPkt) && decide (c.wire.pktLen .v59 ≠ c.wire.pktLen .v116) &&
      decide (c.wire.pktLen .v59 ≠ c.wire.pktLen .v112)
  | .decS0Sync0 => true
  | .decS0Other b => decide (b ≠ c.wire.sync0)
  | .decS1Sync1 => true
  | .decS1Sync0 => decide (c.wire.sync0 ≠ c.wire.sync1)
  | .decS1Other b => decide (b ≠ c.wire.sync0) && decide (b ≠ c.wire.sync1)
  | .decS2Body _ => true
  | .decS2Check _ => true

/-- The decoder position an instruction belongs to: a row of R98 names its state; the other rows go with any. -/
def Instr.atPos {K : Type} : Instr K → DecPos → Bool
  | .saProcess _, _ => true
  | .lmProcess _ _, _ => true
  | .wtProcess _, _ => true
  | .encEncode _ _ _ _ _ _ _ _, _ => true
  | .decFeed _, _ => true
  | .decValidate _, _ => true
  | .fsPublish _ _ _, _ => true
  | .fsTick _, _ => true
  | .pktV116 _ _ _ _ _ _ _, _ => true
  | .pktV112 _ _ _ _ _ _, _ => true
  | .pktV59 _ _ _ _ _, _ => true
  | .decS0Sync0, p => p == .s0
  | .decS0Other _, p => p == .s0
  | .decS1Sync1, p => p == .s1
  | .decS1Sync0, p => p == .s1
  | .decS1Other _, p => p == .s1
  | .decS2Body _, p => p == .s2Body
  | .decS2Check _, p => p == .s2Check

end Sys2Proof
end

