-- ==== Sys2Proof/Certificates/Slice0/Obligations.lean ====
section
/-!
DEFINITION. The statements for the provers, one `def Obligations.<Name> : Prop` each. Sequences are read with `getD _ 0`
at indices inside them. `xorFold` is the fold of R10; the other helper definitions name premises that several statements share. The
statements about numbers alone are over every ordered field `K` with a floor: the machine's rationals and the reals of R9 (log 1).
-/

namespace Sys2Proof.Machine

/-- `XOR(seq)` of R10 written as the fold it is defined as. -/
def xorFold (bs : List Byte) : Byte := bs.foldl (fun a b => a ^^^ b) 0

/-- The SA constants of R7 at their defaults. -/
def SaDefaults (c : Config) : Prop :=
  c.magFloor = 1 / 10 ^ 10 ∧ c.saDbFloor = -60 ∧ c.saRelease = 5 / 1000 ∧ c.saDecay = 3 / 10 ∧ c.maxHeight = 11

/-- The LM constants of R7 at their defaults. -/
def LmDefaults (c : Config) : Prop :=
  c.magFloor = 1 / 10 ^ 10 ∧ c.lmDbFloor = -60 ∧ c.lmRelease = 5 / 1000 ∧ c.lmRmsDecay = 25 / 100 ∧
  c.lmPeakAttack = 95 / 100 ∧ c.lmPeakDrop = 8 / 1000 ∧ c.vuMax = 53

/-- The wire constants of R7 at their defaults. -/
def WireDefaults (f : WireFormat) : Prop :=
  f.sync0 = 0xAA#8 ∧ f.sync1 = 0x55#8 ∧ f.barsPerPkt = 53 ∧ f.scopePerPkt = 53 ∧ f.vuPerPkt = 4 ∧
  f.barClamp = 11 ∧ f.scopeClamp = 10 ∧ f.vuClamp = 53

/-- A rising zero crossing of R191 at index `i`. -/
def Crossing {K : Type} [Field K] [LinearOrder K] (blk : List K) (i : Nat) : Prop := blk.getD (i - 1) 0 ≤ 0 ∧ 0 < blk.getD i 0

/-- The array operands of the encoder have the counts per packet (R7). -/
def PacketArrays (f : WireFormat) (bars scope vu : List Byte) : Prop :=
  bars.length = f.barsPerPkt ∧ scope.length = f.scopePerPkt ∧ vu.length = f.vuPerPkt

/-- They are also in the legal ranges of R91, whose limits are the clamps of R7. -/
def InWireRange (f : WireFormat) (bars scope vu : List Byte) : Prop :=
  PacketArrays f bars scope vu ∧ (∀ b ∈ bars, b.toNat ≤ f.barClamp.toNat) ∧ (∀ b ∈ scope, b.toNat ≤ f.scopeClamp.toNat) ∧
  (∀ b ∈ vu, b.toNat ≤ f.vuClamp.toNat)

/-- The frame a receiver of variant `v` gets back from in-range operands: absent sections of the variant are missing,
sections not enabled come back as zeros (R212, R233). -/
def sentFrame (v : Variant) (boardId frameSeq brightness : Byte) (bars : List Byte) (scopeEn : Bool) (scope : List Byte)
    (vuEn : Bool) (vu : List Byte) : DecodedFrame where
  boardId := boardId
  frameSeq := frameSeq
  brightness := brightness
  bars := bars
  scope := if v = .v59 then none else some (if scopeEn then scope else List.replicate scope.length 0)
  vu := if v = .v116 then some (if vuEn then vu else List.replicate vu.length 0) else none

/-- The sequence holds no pair `SYNC0` `SYNC1` (R235). -/
def NoSyncPair (f : WireFormat) (bs : List Byte) : Prop := ∀ pre post : List Byte, bs ≠ pre ++ [f.sync0, f.sync1] ++ post

/-- Scaling by `g` under the numerics `f`: `log10` turns it into a sum and `sqrt` takes it out of a square (R161 (g)). -/
def ScalesBy {K : Type} [Field K] [LinearOrder K] (f : NumFns K) (g : K) : Prop :=
  (∀ x, 0 < x → f.log10 (g * x) = f.log10 x + f.log10 g) ∧ (∀ x, 0 ≤ x → f.sqrt (g * g * x) = g * f.sqrt x)

/-- A sequence of rationals read as real numbers. -/
noncomputable def reals (l : List Number) : List ℝ := l.map fun x : Number => (x : ℝ)

/-- A rational record read as a record of real numbers (R9). -/
noncomputable def realConfig (c : Config) : ConfigOf ℝ where
  nb := c.nb
  nBands := c.nBands
  scopeCols := c.scopeCols
  fsHz := c.fsHz
  fminHz := c.fminHz
  fmaxHz := c.fmaxHz
  edges := c.edges
  win := reals c.win
  magFloor := c.magFloor
  saDbFloor := c.saDbFloor
  saRise := c.saRise
  saRelease := c.saRelease
  saHeadroomDb := c.saHeadroomDb
  saRangeDb := c.saRangeDb
  maxHeight := c.maxHeight
  saAttack := c.saAttack
  saDecay := c.saDecay
  lmDbFloor := c.lmDbFloor
  lmRise := c.lmRise
  lmRelease := c.lmRelease
  lmHeadroomDb := c.lmHeadroomDb
  lmRangeDb := c.lmRangeDb
  vuMax := c.vuMax
  lmRmsAttack := c.lmRmsAttack
  lmRmsDecay := c.lmRmsDecay
  lmPeakAttack := c.lmPeakAttack
  lmPeakDrop := c.lmPeakDrop
  maxY := c.maxY
  wtRise := c.wtRise
  wtRelease := c.wtRelease
  wtMinAmp := c.wtMinAmp
  wire := c.wire
  encVariant := c.encVariant
  decVariant := c.decVariant
  tickHz := c.tickHz
  numerics := c.numerics

/-- A rational instruction read as one over the real numbers. -/
noncomputable def realInstr : Instr → Instr ℝ
  | .saProcess blk => .saProcess (reals blk)
  | .lmProcess left right => .lmProcess (reals left) (reals right)
  | .wtProcess blk => .wtProcess (reals blk)
  | .encEncode boardId frameSeq brightness bars scopeEn scope vuEn vu => .encEncode boardId frameSeq brightness bars scopeEn scope vuEn vu
  | .decFeed b => .decFeed b
  | .decValidate buf => .decValidate buf
  | .fsPublish bars scope vu => .fsPublish bars scope vu
  | .fsTick brightness => .fsTick brightness
  | .pktV116 boardId frameSeq brightness bars scope vu checksum => .pktV116 boardId frameSeq brightness bars scope vu checksum
  | .pktV112 boardId frameSeq brightness bars scope checksum => .pktV112 boardId frameSeq brightness bars scope checksum
  | .pktV59 boardId frameSeq brightness bars checksum => .pktV59 boardId frameSeq brightness bars checksum
  | .decS0Sync0 => .decS0Sync0
  | .decS0Other b => .decS0Other b
  | .decS1Sync1 => .decS1Sync1
  | .decS1Sync0 => .decS1Sync0
  | .decS1Other b => .decS1Other b
  | .decS2Body b => .decS2Body b
  | .decS2Check b => .decS2Check b

/-- A rational operand read as one over the real numbers. -/
noncomputable def realOperand : Operand → Operand ℝ
  | .nums xs => .nums (reals xs)
  | .bytes bs => .bytes bs
  | .byte b => .byte b
  | .bit b => .bit b

/-- A rational input read as one over the real numbers. -/
noncomputable def realInput : Input → Input ℝ
  | .word (.command w) => .word (.command ⟨w.op, w.operands.map realOperand⟩)
  | .word (.wire b) => .word (.wire b)
  | .word (.datagram buf) => .word (.datagram buf)
  | .reset => .reset

/-- The spectrum analyzer's rational state read as real numbers. -/
noncomputable def realSa (sa : SaState Number) : SaState ℝ := ⟨sa.tp, reals sa.cur, sa.fault⟩

/-- The level meter's rational state read as real numbers. -/
noncomputable def realLm (lm : LmState Number) : LmState ℝ :=
  ⟨lm.tp, ⟨lm.rms.left, lm.rms.right⟩, ⟨lm.peak.left, lm.peak.right⟩, lm.fault⟩

/-- The machine's state elements read as real numbers. -/
noncomputable def realBlock (b : BlockState Number) : BlockState ℝ := ⟨realSa b.sa, realLm b.lm, ⟨b.wt.tp, b.wt.fault⟩, b.dec, b.fs⟩

/-- The real functions answer at rational arguments what the functions of the record answer. -/
def AgreesWith (f : NumFns ℝ) (g : NumFns Number) : Prop :=
  ∀ x : Number, f.log10 (x : ℝ) = (g.log10 x : ℝ) ∧ f.sqrt (x : ℝ) = (g.sqrt x : ℝ) ∧
    f.cosTurn (x : ℝ) = (g.cosTurn x : ℝ) ∧ f.sinTurn (x : ℝ) = (g.sinTurn x : ℝ)

end Sys2Proof.Machine

open Sys2Proof Sys2Proof.Machine

/-! ## Encoding -/

/-- Decoding the word of a well-formed instruction, at a decoder position its row belongs to, gives it back: no operand
bit of any of the 18 rows is dropped (R91 to R93, R98, R101), whatever the wire constants of the record. -/
def Obligations.DecodeOfEncode : Prop :=
  ∀ (K : Type) (c : ConfigOf K) (p : DecPos) (i : Instr K), i.wellFormed c = true → i.atPos p = true →
    decode c.wire p (encode c.wire i) = .ok i

/-- Every word the decoder accepts is the word of the instruction it answers, except a datagram that is no packet of the
three formats (it lacks the sync marker or has none of the three lengths), which is a buffer for the validator (log 8). -/
def Obligations.EncodeOfDecode : Prop :=
  ∀ (K : Type) (f : WireFormat) (p : DecPos) (w : InstrWord K) (i : Instr K), decode f p w = .ok i →
    i.atPos p = true ∧ (encode f i = w ∨ ∃ buf, w = .datagram buf ∧ i = .decValidate buf ∧
      ¬(buf.getD 0 0 = f.sync0 ∧ buf.getD 1 0 = f.sync1 ∧
        (buf.length = f.pktLen .v116 ∨ buf.length = f.pktLen .v112 ∨ buf.length = f.pktLen .v59)))

/-- A few words written out from R98, R101 and the source's packet (R218) decode, with the wire constants at their defaults (R7), to
the instruction they stand for. -/
def Obligations.DecodedWordsAreRight : Prop :=
  decode {} .s0 (.command ⟨1#4, [.nums [1, -1]]⟩) = .ok (.saProcess [1, -1] : Instr) ∧
  decode {} .s0 (.command ⟨2#4, [.nums [1], .nums [2]]⟩) = .ok (.lmProcess [1] [2] : Instr) ∧
  decode {} .s2Body (.command ⟨8#4, [.byte 0x80#8]⟩) = .ok (.fsTick 0x80#8 : Instr) ∧
  decode {} .s0 (.wire 0xAA#8) = .ok (.decS0Sync0 : Instr) ∧
  decode {} .s0 (.wire 0x55#8) = .ok (.decS0Other 0x55#8 : Instr) ∧
  decode {} .s1 (.wire 0x55#8) = .ok (.decS1Sync1 : Instr) ∧
  decode {} .s1 (.wire 0xAA#8) = .ok (.decS1Sync0 : Instr) ∧
  decode {} .s2Body (.wire 0xAA#8) = .ok (.decS2Body 0xAA#8 : Instr) ∧
  decode {} .s0 (.datagram ([0xAA#8, 0x55#8, 0#8, 7#8, 0x80#8] ++ List.replicate 53 0#8 ++ [0x87#8])) =
    .ok (.pktV59 0#8 7#8 0x80#8 (List.replicate 53 0#8) 0x87#8 : Instr)

/-- The operation codes that select no operation are exactly 0x0 and 0x9 to 0xF, whatever the operands (R101). -/
def Obligations.UnassignedOperationCodes : Prop :=
  ∀ (K : Type) (f : WireFormat) (p : DecPos) (op : BitVec 4) (os : List (Operand K)),
    decode f p (.command ⟨op, os⟩) = .error (.noOperation op) ↔ (op = 0 ∨ 9 ≤ op.toNat)

/-! ## The step -/

/-- A step whose next input is a word that decodes to `i` runs `i` on the state without that input. That the inputs not yet taken stand
in a list of the state, taken from its front, is the model's choice (log 4); the rules cited give one operation at a time (R5), in a
total order (R74), and the row a byte selects (R98). -/
def Obligations.StepRunsTheDecodedInstruction : Prop :=
  ∀ (s : State) (w : InstrWord) (rest : List Input) (i : Instr),
    s.cfg.Valid → s.inbox = .word w :: rest → decode s.cfg.wire s.decPos w = .ok i → step s = exec i { s with inbox := rest }

/-- A word that selects no operation is taken and changes no state element (R99 (f), U8; the answered result is the
model's, log 7). -/
def Obligations.UnselectedWordChangesNothing : Prop :=
  ∀ (s : State) (w : InstrWord) (rest : List Input) (e : DecodeError),
    s.cfg.Valid → s.inbox = .word w :: rest → decode s.cfg.wire s.decPos w = .error e →
      step s = .next { s with inbox := rest, result := .refused (refusalOf e) }

/-- With a valid configuration every step answers a next state: no operation blocks, waits or stops the block (R75). That a raised
`BlockLength` answers one too is the model's choice (log 6), as are the next states of a word that is turned away (log 7) and of an
empty list of inputs (log 13). -/
def Obligations.EveryStepCompletes : Prop :=
  ∀ s : State, s.cfg.Valid → ∃ t, step s = .next t

/-- A block whose configuration is invalid gives no operation a meaning (U4, D34). The spec refuses such a record at construction; that
the model refuses it in the step, the record standing in the state, is its choice (log 2), and so is the refusal of a record that is
invalid only for `SCOPE_COLS = 0` or a peak drop outside (0, 1] (log 16). -/
def Obligations.InvalidConfigurationRefused : Prop :=
  ∀ s : State, ¬ s.cfg.Valid → step s = .refused .invalidConfiguration

/-! ## Reset -/

/-- The reset table of R40 for every configuration record, the lengths of R7 and R8 and the wire constants of R7 in the reference record.
That the host's reset state stands in that record is the model's choice (log 3); no clause here reads one of its OPEN parameters. -/
def Obligations.ResetValues : Prop :=
  (∀ c : Config, let s := State.resetWith c
    s.cfg = c ∧
    s.sa.tp = c.saDbFloor ∧ s.sa.cur = List.replicate c.nBands 0 ∧
    s.lm.tp = c.lmDbFloor ∧ s.lm.rms = ⟨0, 0⟩ ∧ s.lm.peak = ⟨0, 0⟩ ∧
    s.wt.tp = c.wtMinAmp ∧
    s.sa.fault = false ∧ s.lm.fault = false ∧ s.wt.fault = false ∧
    s.dec.st = .s0 ∧ s.dec.cur = 0 ∧ s.dec.buf = List.replicate (c.wire.bodyLen c.decVariant + 1) 0x00#8 ∧
    s.fs.bars = List.replicate c.nBands 0 ∧ s.fs.scope = List.replicate c.scopeCols 0 ∧
    s.fs.vu = Vector.replicate 4 0 ∧ s.fs.seq = 0) ∧
  State.reset = State.resetWith Config.reference ∧
  State.reset.sa.tp = -60 ∧ State.reset.lm.tp = -60 ∧ State.reset.wt.tp = 1 / 1000 ∧
  State.reset.sa.cur.length = 53 ∧ State.reset.dec.buf.length = 114 ∧
  State.reset.fs.bars.length = 53 ∧ State.reset.fs.scope.length = 53 ∧
  WireDefaults State.reset.cfg.wire ∧ State.reset.cfg.encVariant = .v116 ∧ State.reset.cfg.decVariant = .v116 ∧
  [.v116, .v112, .v59].map State.reset.cfg.wire.bodyLen = [113, 109, 56] ∧
  [.v116, .v112, .v59].map State.reset.cfg.wire.pktLen = [116, 112, 59]

/-- The reset event puts every state element at its value of R40 in one step, clears the three fault flags and leaves the configuration
as it is (R300). That the inputs not yet taken stay is the model's choice (log 14; R300 speaks of none). -/
def Obligations.ResetEventRestoresResetValues : Prop :=
  ∀ (s : State) (rest : List Input), s.cfg.Valid → s.inbox = .reset :: rest →
    ∃ t, step s = .next t ∧ t.cfg = s.cfg ∧ t.inbox = rest ∧
      t.sa.tp = s.cfg.saDbFloor ∧ t.sa.cur = List.replicate s.cfg.nBands 0 ∧ t.sa.fault = false ∧
      t.lm.tp = s.cfg.lmDbFloor ∧ t.lm.rms = ⟨0, 0⟩ ∧ t.lm.peak = ⟨0, 0⟩ ∧ t.lm.fault = false ∧
      t.wt.tp = s.cfg.wtMinAmp ∧ t.wt.fault = false ∧
      t.dec.st = .s0 ∧ t.dec.cur = 0 ∧ t.dec.buf = List.replicate (s.cfg.wire.bodyLen s.cfg.decVariant + 1) 0 ∧
      t.fs.bars = List.replicate s.cfg.nBands 0 ∧ t.fs.scope = List.replicate s.cfg.scopeCols 0 ∧
      t.fs.vu = Vector.replicate 4 0 ∧ t.fs.seq = 0

/-! ## Invariants -/

/-- The reset state of every valid record meets the invariant of R21 to R30 and R302, whatever the numbers; so does the host's reset
state, whose record is the model's choice (log 3, the OPEN `NB`, `EDGES` and `WIN` among its values), and the same record over the real
numbers is valid too. -/
def Obligations.ResetMeetsTheInvariant : Prop :=
  (∀ (K : Type) [Field K] [LinearOrder K] [IsStrictOrderedRing K] (c : ConfigOf K), c.Valid → (BlockState.resetWith c).Inv c) ∧
  (∀ c : Config, c.Valid → (State.resetWith c).Inv) ∧ State.reset.Inv ∧ ConfigOf.exactReference.Valid

/-- Every step keeps the invariant: trackers at or above their floors, bars and columns in range, the decoder's cursor
and buffer in bounds, the slot arrays of their lengths, the configuration valid (R21 to R30). It holds of the machine, and of the
block over any numbers with any functions, the exact machine over the reals (R9) among them. -/
def Obligations.StepKeepsTheInvariant : Prop :=
  (∀ s t : State, s.Inv → step s = .next t → t.Inv) ∧
  (∀ (K : Type) [Field K] [LinearOrder K] [IsStrictOrderedRing K] [FloorRing K] (f : NumFns K) (c : ConfigOf K) (input : Input K)
    (b : BlockState K), c.Valid → b.Inv c → (b.step f c input).1.Inv c) ∧
  (∀ (c : ConfigOf ℝ) (input : Input ℝ) (b : BlockState ℝ), c.Valid → b.Inv c → (exactStep c input b).1.Inv c)

/-- No step writes the configuration, and a step is a function of it as a parameter: the operation of the block with that record on the
state elements and the input, whose result goes to the issuer; so is every instruction (R37, R79). That the record, the inputs and the result stand in the host's
state is the model's choice (logs 2, 4, 5). -/
def Obligations.StepKeepsTheConfiguration : Prop :=
  (∀ s t : State, step s = .next t → t.cfg = s.cfg) ∧
  (∀ (s : State) (input : Input) (rest : List Input), s.cfg.Valid → s.inbox = input :: rest →
    let a := BlockState.step s.cfg.fns s.cfg input s.toBlockState
    step s = .next { toBlockState := a.1, cfg := s.cfg, inbox := rest, result := a.2 }) ∧
  ∀ (i : Instr) (s : State),
    let a := BlockState.exec s.cfg.fns s.cfg i s.toBlockState
    exec i s = .next { toBlockState := a.1, cfg := s.cfg, inbox := s.inbox, result := a.2 }

/-! ## The exception -/

/-- `BlockLength` is raised by the three analyzer operations on a block of a wrong length while their unit is not faulted, with code 1 and
the unit as its record, and by nothing else (R270, R272). That the raise is a next state is the model's choice (log 6; R273 calls it
the fault outcome of a step). -/
def Obligations.BlockLengthIsTheOnlyException : Prop :=
  ∀ (i : Instr) (s : State), ∃ t, exec i s = .next t ∧ ∀ e : ExceptionRecord,
    t.result = .raised e ↔
      e.code = 1 ∧ s.faulted e.unit = false ∧
      ((∃ blk, i = .saProcess blk ∧ e.unit = .sa ∧ blk.length ≠ s.cfg.nb) ∨
       (∃ left right, i = .lmProcess left right ∧ e.unit = .lm ∧ (left.length ≠ s.cfg.nb ∨ right.length ≠ s.cfg.nb)) ∨
       (∃ blk, i = .wtProcess blk ∧ e.unit = .wt ∧ blk.length ≠ s.cfg.nb))

/-- Entry of the exception (R273): the unit's flag is set, the issuer is told, nothing else of any unit changes, and the faulted state is
"never a good final state": `BlockState.Good` fails of it, and from a good state with an input pending a step is safe exactly when it does
not raise. That the entry is a next state is the model's choice (log 6). -/
def Obligations.BlockLengthSetsOnlyTheFlag : Prop :=
  (∀ (blk : List Number) (s : State), s.sa.fault = false → blk.length ≠ s.cfg.nb →
    ∃ t : State, exec (.saProcess blk) s = .next t ∧ ¬ t.Good ∧
      t = { s with sa := { s.sa with fault := true }, result := .raised ⟨1, .sa⟩ }) ∧
  (∀ (left right : List Number) (s : State), s.lm.fault = false → (left.length ≠ s.cfg.nb ∨ right.length ≠ s.cfg.nb) →
    ∃ t : State, exec (.lmProcess left right) s = .next t ∧ ¬ t.Good ∧
      t = { s with lm := { s.lm with fault := true }, result := .raised ⟨1, .lm⟩ }) ∧
  (∀ (blk : List Number) (s : State), s.wt.fault = false → blk.length ≠ s.cfg.nb →
    ∃ t : State, exec (.wtProcess blk) s = .next t ∧ ¬ t.Good ∧
      t = { s with wt := { s.wt with fault := true }, result := .raised ⟨1, .wt⟩ }) ∧
  (∀ s : State, s.cfg.Valid → s.Good → s.inbox ≠ [] →
    (SafeStep s ↔ ∀ (t : State) (e : ExceptionRecord), step s = .next t → t.result ≠ .raised e))

/-- While a unit's flag is set every operation on it is refused, whatever its operands: no state is written and there is no
result (R274; the flag is tested before the lengths, R272). -/
def Obligations.FaultedUnitRefuses : Prop :=
  (∀ (blk : List Number) (s : State), s.sa.fault = true →
    exec (.saProcess blk) s = .next { s with result := .refused (.unitFaulted .sa) }) ∧
  (∀ (left right : List Number) (s : State), s.lm.fault = true →
    exec (.lmProcess left right) s = .next { s with result := .refused (.unitFaulted .lm) }) ∧
  (∀ (blk : List Number) (s : State), s.wt.fault = true →
    exec (.wtProcess blk) s = .next { s with result := .refused (.unitFaulted .wt) })

/-- A fault flag that is set stays set in every step but the reset event's, which clears it (R36, R274, R300). -/
def Obligations.FaultFlagClearedOnlyByReset : Prop :=
  ∀ (s t : State) (u : Analyzer), step s = .next t → s.faulted u = true →
    (t.faulted u = false ↔ ∃ rest, s.inbox = .reset :: rest)

/-- A fault is local: an operation of the consumer or the device does the same with any fault flag set (R274, R287). -/
def Obligations.FaultIsInvisibleToOtherAgents : Prop :=
  ∀ (i : Instr) (s t : State) (u : Analyzer), agentOf i ≠ .prod → exec i s = .next t →
    exec i (s.setFault u) = .next (t.setFault u)

/-! ## Ownership and order -/

/-- Each operation writes only its own unit's state; within the decoder only fed bytes write, and in the slot only
`FS.PUBLISH` writes the arrays and only `FS.TICK` the sequence number (R41, R30, R31, R232). -/
def Obligations.OperationsWriteOnlyTheirUnit : Prop :=
  ∀ (i : Instr) (s t : State), exec i s = .next t →
    t.cfg = s.cfg ∧ t.inbox = s.inbox ∧
    (unitOf i ≠ .sa → t.sa = s.sa) ∧ (unitOf i ≠ .lm → t.lm = s.lm) ∧ (unitOf i ≠ .wt → t.wt = s.wt) ∧
    (unitOf i ≠ .dec → t.dec = s.dec) ∧ (unitOf i ≠ .fs → t.fs = s.fs) ∧
    ((∀ b, encode s.cfg.wire i ≠ .wire b) → (∀ b, i ≠ .decFeed b) → t.dec = s.dec) ∧
    ((∀ brightness, i ≠ .fsTick brightness) → t.fs.seq = s.fs.seq) ∧
    ((∀ bars scope vu, i ≠ .fsPublish bars scope vu) →
      t.fs.bars = s.fs.bars ∧ t.fs.scope = s.fs.scope ∧ t.fs.vu = s.fs.vu)

/-- Two operations of different units give the same state elements and the same two results in either order
(R41, R74, R77). -/
def Obligations.DifferentUnitsCommute : Prop :=
  ∀ (i j : Instr) (s si sij sj sji : State), unitOf i ≠ unitOf j →
    exec i s = .next si → exec j si = .next sij → exec j s = .next sj → exec i sj = .next sji →
      { sij with result := sji.result } = sji ∧ si.result = sji.result ∧ sij.result = sj.result

/-! ## Spectrum analyzer -/

/-- The band levels of R152 to R154: the windowed block's spectrum (R139), its mean over each band's bins (R140, R153), and
the dB of the mean floored at `MAG_FLOOR` (R154). -/
def Obligations.BandLevelsAreTheSpectrumMeans : Prop :=
  ∀ (K : Type) [Field K] [LinearOrder K] [IsStrictOrderedRing K] (f : NumFns K) (c : ConfigOf K) (blk : List K) (i : Nat),
    c.Valid → blk.length = c.nb → i < c.nBands →
    let lo := c.edges.getD i 0
    let hi := if c.edges.getD (i + 1) 0 > lo then c.edges.getD (i + 1) 0 else lo + 1
    let re := fun k : Nat => ∑ n ∈ Finset.range c.nb, blk.getD n 0 * c.win.getD n 0 * f.cosTurn ((k * n : Nat) / (c.nb : K))
    let im := fun k : Nat => -∑ n ∈ Finset.range c.nb, blk.getD n 0 * c.win.getD n 0 * f.sinTurn ((k * n : Nat) / (c.nb : K))
    let mean := (∑ k ∈ Finset.Ico lo hi, f.sqrt (re k ^ 2 + im k ^ 2)) / ((hi - lo : Nat) : K)
    (bandLevels f c blk)[i]? = some (20 * f.log10 (max mean c.magFloor))

/-- Scaling a block (R161 (g)): where both band means are at or above the magnitude floor, a factor `g > 0` adds `20 * log10 g` to the
band's level; a shift of every level and of the tracker shifts the updated tracker and leaves the bars as they are, as long as neither the
tracker nor the window is pinned at the dB floor. It holds for every factor by which the numerics scale: every `g > 0` for the exact
functions of R9, the powers of ten for the functions of any record (the model's reading of the rest, log 17). -/
def Obligations.ScalingABlockShiftsTheLevels : Prop :=
  (∀ (K : Type) [Field K] [LinearOrder K] [IsStrictOrderedRing K] (f : NumFns K) (c : ConfigOf K) (g : K) (blk : List K) (i : Nat),
    c.Valid → blk.length = c.nb → i < c.nBands → 0 < g → ScalesBy f g →
    let mean := (bandMeans c (rfftMag f c.nb (windowedBlock c blk))).getD i 0
    c.magFloor ≤ mean → c.magFloor ≤ g * mean →
      (bandLevels f c (blk.map fun x => g * x)).getD i 0 = (bandLevels f c blk).getD i 0 + 20 * f.log10 g) ∧
  (∀ (K : Type) [Field K] [LinearOrder K] [IsStrictOrderedRing K] (c : ConfigOf K) (d : List K) (sa : SaState K) (shift : K),
    d ≠ [] →
    let tp := track sa.tp (maxNums d) c.saRise c.saRelease
    (∀ x ∈ [tp, tp + shift], c.saDbFloor ≤ x ∧ c.saDbFloor ≤ x + c.saHeadroomDb - c.saRangeDb) →
      saUpdate c (d.map fun x => x + shift) { sa with tp := sa.tp + shift } =
        { saUpdate c d sa with tp := (saUpdate c d sa).tp + shift }) ∧
  (∀ g : ℝ, 0 < g → ScalesBy NumFns.exact g) ∧
  (∀ (c : Config) (k : Int), ScalesBy c.fns (10 ^ k))

/-- `SA.PROCESS` on a block of the required length completes (R155 to R158): the tracker moves toward the largest band level and
is bounded by its floor, each bar is smoothed toward its target in the window of the updated tracker, the result is the
rounded bars, and nothing outside SA changes. -/
def Obligations.SaProcessUpdatesTrackerAndBars : Prop :=
  ∀ (blk : List Number) (s : State), s.cfg.Valid → s.sa.fault = false → blk.length = s.cfg.nb →
    s.sa.cur.length = s.cfg.nBands →
    ∃ (t : State) (m ceil floor : Number),
      exec (.saProcess blk) s = .next t ∧
      t = { s with sa := { s.sa with tp := t.sa.tp, cur := t.sa.cur }, result := .bars (t.sa.cur.map rne) } ∧
      m ∈ bandLevels s.cfg.fns s.cfg blk ∧ (∀ x ∈ bandLevels s.cfg.fns s.cfg blk, x ≤ m) ∧
      t.sa.tp = max (if m > s.sa.tp then s.sa.tp + s.cfg.saRise * (m - s.sa.tp)
        else s.sa.tp + s.cfg.saRelease * (m - s.sa.tp)) s.cfg.saDbFloor ∧
      ceil = t.sa.tp + s.cfg.saHeadroomDb ∧ floor = max (ceil - s.cfg.saRangeDb) s.cfg.saDbFloor ∧
      t.sa.cur.length = s.cfg.nBands ∧
      ∀ i, i < s.cfg.nBands →
        let d := (bandLevels s.cfg.fns s.cfg blk).getD i 0
        let target := max 0 (min 1 ((d - floor) / (ceil - floor))) * (s.cfg.maxHeight : Number)
        let cur := s.sa.cur.getD i 0
        t.sa.cur[i]? = some (if target ≥ cur then cur + s.cfg.saAttack * (target - cur)
          else cur + s.cfg.saDecay * (target - cur))

/-- From a state in the invariant the returned bars are one per band, each in `0 .. MAX_HEIGHT` (R158, R159). -/
def Obligations.SaBarsStayInRange : Prop :=
  ∀ (blk : List Number) (s : State), s.Inv → s.sa.fault = false → blk.length = s.cfg.nb →
    ∃ t bars, exec (.saProcess blk) s = .next t ∧ t.result = .bars bars ∧ bars.length = s.cfg.nBands ∧
      ∀ b ∈ bars, 0 ≤ b ∧ b ≤ (s.cfg.maxHeight : Int)

/-- A silent block with the default constants (R160): the tracker moves down by 0.005 of its distance to -200 dB but not below
-60, and every bar is multiplied by 0.7. It rests on two laws of the numerics record: `log10 (10^-10) = -10` (R9) and
`sqrt 0 = 0` (the model's, log 17). -/
def Obligations.SaSilentBlockDecays : Prop :=
  ∀ s : State, s.Inv → SaDefaults s.cfg → s.sa.fault = false →
    exec (.saProcess (List.replicate s.cfg.nb 0)) s = .next { s with
      sa := { s.sa with tp := max (s.sa.tp - 5 / 1000 * (200 + s.sa.tp)) (-60), cur := s.sa.cur.map fun x => 7 / 10 * x }
      result := .bars (s.sa.cur.map fun x => rne (7 / 10 * x)) }

/-- Silence clears the bars (R160, X4, X9): with the default constants nine silent blocks, the next nine inputs, leave every bar
returned by the ninth at 0, from any state in the invariant (the inbox and log 17's `sqrt 0 = 0` are the model's, log 4). -/
def Obligations.SaSilenceClearsTheBars : Prop :=
  ∀ (s : State) (rest : List Input), s.Inv → SaDefaults s.cfg → s.sa.fault = false →
    s.inbox = List.replicate 9 (.word (encode s.cfg.wire (.saProcess (List.replicate s.cfg.nb 0)))) ++ rest →
      ∃ t : State, Sys2Proof.core.run 9 s = .next t ∧ t.inbox = rest ∧
        t.result = .bars (List.replicate s.cfg.nBands 0)

/-! ## Level meter -/

/-- `LM.PROCESS` on two blocks of the required length completes (R172 to R177): each channel's RMS in dB, the shared tracker
toward the louder channel, the window of the updated tracker, the RMS series, the peak-hold series with its fixed drop, the
rounded and clamped result, and nothing outside LM changes. -/
def Obligations.LmProcessUpdatesTrackerAndColumns : Prop :=
  ∀ (left right : List Number) (s : State), s.lm.fault = false → left.length = s.cfg.nb → right.length = s.cfg.nb →
    let c := s.cfg
    let db := fun x : List Number => 20 * c.fns.log10
      (max (c.fns.sqrt ((∑ n ∈ Finset.range c.nb, x.getD n 0 ^ 2) / (c.nb : Number))) c.magFloor)
    let m := max (db left) (db right)
    let tp := max (if m > s.lm.tp then s.lm.tp + c.lmRise * (m - s.lm.tp) else s.lm.tp + c.lmRelease * (m - s.lm.tp))
      c.lmDbFloor
    let ceil := tp + c.lmHeadroomDb
    let floor := max (ceil - c.lmRangeDb) c.lmDbFloor
    let target := fun d : Number => max 0 (min 1 ((d - floor) / (ceil - floor))) * (c.vuMax : Number)
    let rms := fun x t : Number => if t ≥ x then x + c.lmRmsAttack * (t - x) else x + c.lmRmsDecay * (t - x)
    let peak := fun x t : Number => if t ≥ x then x + c.lmPeakAttack * (t - x) else x - c.lmPeakDrop * (c.vuMax : Number)
    let out := fun v : Number => max 0 (min (c.vuMax : Int) (rne v))
    ∃ t : State, exec (.lmProcess left right) s = .next t ∧
      t = { s with lm := t.lm, result := t.result } ∧
      t.lm = { s.lm with
        tp := tp
        rms := ⟨rms s.lm.rms.left (target (db left)), rms s.lm.rms.right (target (db right))⟩
        peak := ⟨peak s.lm.peak.left (target (db left)), peak s.lm.peak.right (target (db right))⟩ } ∧
      t.result = .levels (out t.lm.rms.left) (out t.lm.peak.left) (out t.lm.rms.right) (out t.lm.peak.right)

/-- The four columns are in `0 .. VU_MAX` for every input and every state (R178). -/
def Obligations.LmColumnsStayInRange : Prop :=
  ∀ (left right : List Number) (s : State), s.lm.fault = false → left.length = s.cfg.nb → right.length = s.cfg.nb →
    ∃ (t : State) (lRms lPeak rRms rPeak : Int), exec (.lmProcess left right) s = .next t ∧
      t.result = .levels lRms lPeak rRms rPeak ∧
      (0 ≤ lRms ∧ lRms ≤ s.cfg.vuMax) ∧ (0 ≤ lPeak ∧ lPeak ≤ s.cfg.vuMax) ∧
      (0 ≤ rRms ∧ rRms ≤ s.cfg.vuMax) ∧ (0 ≤ rPeak ∧ rPeak ≤ s.cfg.vuMax)

/-- Silence with the default constants (R179): each RMS column is multiplied by 0.75; a peak column above 0 falls by exactly
0.424, and one at or below 0 is pulled back toward 0 by the attack rate; the tracker moves down by 0.005 of its distance to -200
dB but not below -60. It rests on log 17's `sqrt 0 = 0`, which is the model's. -/
def Obligations.LmSilentBlockDecays : Prop :=
  ∀ s : State, s.Inv → LmDefaults s.cfg → s.lm.fault = false →
    ∃ t : State, exec (.lmProcess (List.replicate s.cfg.nb 0) (List.replicate s.cfg.nb 0)) s = .next t ∧
      t.lm.tp = max (s.lm.tp - 5 / 1000 * (200 + s.lm.tp)) (-60) ∧
      t.lm.rms = ⟨75 / 100 * s.lm.rms.left, 75 / 100 * s.lm.rms.right⟩ ∧
      t.lm.peak.left = (if 0 < s.lm.peak.left then s.lm.peak.left - 424 / 1000 else 5 / 100 * s.lm.peak.left) ∧
      t.lm.peak.right = (if 0 < s.lm.peak.right then s.lm.peak.right - 424 / 1000 else 5 / 100 * s.lm.peak.right)

/-- Left and right are interchangeable: swapping the operands and the channel states swaps the results (R180 (g)). -/
def Obligations.LmChannelsInterchange : Prop :=
  ∀ (left right : List Number) (s : State), s.lm.fault = false → left.length = s.cfg.nb → right.length = s.cfg.nb →
    ∃ (t u : State) (lRms lPeak rRms rPeak : Int),
      exec (.lmProcess left right) s = .next t ∧
      exec (.lmProcess right left) { s with lm := { s.lm with
        rms := ⟨s.lm.rms.right, s.lm.rms.left⟩, peak := ⟨s.lm.peak.right, s.lm.peak.left⟩ } } = .next u ∧
      t.result = .levels lRms lPeak rRms rPeak ∧ u.result = .levels rRms rPeak lRms lPeak ∧
      u.lm = { t.lm with rms := ⟨t.lm.rms.right, t.lm.rms.left⟩, peak := ⟨t.lm.peak.right, t.lm.peak.left⟩ }

/-! ## Waveform tracer -/

/-- The resampled trace of a block (R191 to R193): the trigger is the first crossing in the first quarter or 0; the segment is half a
block from it, padded with zeros to at least `SCOPE_COLS`; point `j` is the linear interpolation at `j * (L-1) / (C-1)`. -/
def Obligations.TraceIsTheTriggeredResampling : Prop :=
  ∀ (K : Type) [Field K] [LinearOrder K] [IsStrictOrderedRing K] [FloorRing K] (c : ConfigOf K) (blk : List K),
    c.Valid → blk.length = c.nb →
    ∃ trig : Nat,
      ((trig = 0 ∧ ∀ i, 1 ≤ i → i < c.nb / 4 → ¬ Crossing blk i) ∨
        (1 ≤ trig ∧ trig < c.nb / 4 ∧ Crossing blk trig ∧ ∀ i, 1 ≤ i → i < trig → ¬ Crossing blk i)) ∧
      (traceOf c blk).length = c.scopeCols ∧
      ∀ j, j < c.scopeCols →
        let seg := fun k : Nat => if k < c.nb / 2 then blk.getD (trig + k) 0 else 0
        let pos : K := if c.scopeCols = 1 then 0
          else (j : K) * ((max (c.nb / 2) c.scopeCols - 1 : Nat) : K) / ((c.scopeCols - 1 : Nat) : K)
        ∃ (i0 : Nat) (fr : K), pos = (i0 : K) + fr ∧ 0 ≤ fr ∧ fr < 1 ∧
          (traceOf c blk)[j]? = some (seg i0 * (1 - fr) + seg (i0 + 1) * fr)

/-- `WT.PROCESS` on a block of the required length completes (R194 to R196): the gain tracker moves toward the largest absolute
trace value and is bounded by its minimum, each position is the truncated map of the normalised point, and nothing outside
WT changes. -/
def Obligations.WtProcessUpdatesGainAndPositions : Prop :=
  ∀ (blk : List Number) (s : State), s.cfg.Valid → s.wt.fault = false → blk.length = s.cfg.nb →
    ∃ (t : State) (pk : Number) (ypos : List Int),
      exec (.wtProcess blk) s = .next t ∧
      t = { s with wt := { s.wt with tp := t.wt.tp }, result := .trace ypos } ∧
      (∃ y ∈ traceOf s.cfg blk, pk = |y|) ∧ (∀ y ∈ traceOf s.cfg blk, |y| ≤ pk) ∧
      t.wt.tp = max (if pk > s.wt.tp then s.wt.tp + s.cfg.wtRise * (pk - s.wt.tp)
        else s.wt.tp + s.cfg.wtRelease * (pk - s.wt.tp)) s.cfg.wtMinAmp ∧
      ypos.length = s.cfg.scopeCols ∧
      ∀ j, j < s.cfg.scopeCols →
        let v := max (-1) (min 1 ((traceOf s.cfg blk).getD j 0 / t.wt.tp))
        ypos[j]? = some ⌊(v + 1) / 2 * (s.cfg.maxY : Number)⌋

/-- Every position is in `0 .. MAX_Y`, whatever the block and the state (R198). -/
def Obligations.WtPositionsStayInRange : Prop :=
  ∀ (blk : List Number) (s : State), s.wt.fault = false → blk.length = s.cfg.nb →
    ∃ t ypos, exec (.wtProcess blk) s = .next t ∧ t.result = .trace ypos ∧
      ∀ p ∈ ypos, 0 ≤ p ∧ p ≤ (s.cfg.maxY : Int)

/-- Silence puts every position on the centre line at once and the gain reference decays, bounded by its minimum (R199 (a), (b)). -/
def Obligations.WtSilenceDrawsTheCentreLine : Prop :=
  ∀ s : State, s.Inv → s.wt.fault = false →
    exec (.wtProcess (List.replicate s.cfg.nb 0)) s = .next { s with
      wt := { s.wt with tp := max (s.wt.tp - s.cfg.wtRelease * s.wt.tp) s.cfg.wtMinAmp }
      result := .trace (List.replicate s.cfg.scopeCols ((s.cfg.maxY / 2 : Nat) : Int)) }

/-! ## Encoder -/

/-- `ENC.ENCODE` (R210 to R214): for arrays of the counts per packet it completes in every state, changes no state, and returns the
packet of its variant byte by byte: sync, header, clamped bars, the sections the variant carries (zeros when not enabled), XOR of the
body. The counts and clamps are the record's (R7; 53, 53, 4 and 11, 10, 53 by default). Arrays of other lengths, which the port cannot
express (U7), are rejected with no state written (log 7). -/
def Obligations.EncodeReturnsThePacket : Prop :=
  ∀ (boardId frameSeq brightness : Byte) (bars : List Byte) (scopeEn : Bool) (scope : List Byte) (vuEn : Bool)
    (vu : List Byte) (s : State),
    let v := s.cfg.encVariant
    let w := s.cfg.wire
    (PacketArrays w bars scope vu → ∃ pkt : List Byte,
      exec (.encEncode boardId frameSeq brightness bars scopeEn scope vuEn vu) s = .next { s with result := .packet pkt } ∧
      pkt.length = w.pktLen v ∧
      pkt.getD 0 0 = w.sync0 ∧ pkt.getD 1 0 = w.sync1 ∧
      pkt.getD 2 0 = boardId ∧ pkt.getD 3 0 = frameSeq ∧ pkt.getD 4 0 = brightness ∧
      (∀ i < w.barsPerPkt, (pkt.getD (5 + i) 0).toNat = min (bars.getD i 0).toNat w.barClamp.toNat) ∧
      (v ≠ .v59 → ∀ i < w.scopePerPkt, (pkt.getD (5 + w.barsPerPkt + i) 0).toNat =
        if scopeEn then min (scope.getD i 0).toNat w.scopeClamp.toNat else 0) ∧
      (v = .v116 → ∀ i < w.vuPerPkt, (pkt.getD (5 + w.barsPerPkt + w.scopePerPkt + i) 0).toNat =
        if vuEn then min (vu.getD i 0).toNat w.vuClamp.toNat else 0) ∧
      pkt.getD (w.pktLen v - 1) 0 = xorFold ((pkt.drop 2).take (w.bodyLen v))) ∧
    (¬ PacketArrays w bars scope vu →
      exec (.encEncode boardId frameSeq brightness bars scopeEn scope vuEn vu) s =
        .next { s with result := .refused .operandShape })

/-- The source's worked example on the 59-byte variant, the wire constants at their defaults (R218): `AA 55 00 07 80`, 53 zero
bytes, `87`. -/
def Obligations.EncodeGivesTheSourceExample : Prop :=
  ∀ s : State, s.cfg.encVariant = .v59 → WireDefaults s.cfg.wire →
    exec (encodeBarsOnly s.cfg.wire 0 7 128 (List.replicate 53 0)) s = .next { s with
      result := .packet ([0xAA#8, 0x55#8, 0x00#8, 0x07#8, 0x80#8] ++ List.replicate 53 0x00#8 ++ [0x87#8]) }

/-- Encoding board `k` of a Frame that R256 calls encodable (`ENC.FRAME` of R104): the bars of that board, both sections enabled,
`board_id = k`, the frame's own sequence number and brightness. For any other frame there is no operation: R256 gives no packet, and
that a board number above 255 is among these is the model's choice (log 21). -/
def Obligations.FrameIsEncodedPerBoard : Prop :=
  ∀ (k : Nat) (f : Frame) (s : State),
    let v := s.cfg.encVariant
    let w := s.cfg.wire
    let encodable := w.barsPerPkt ∣ f.bars.length ∧ w.barsPerPkt * (k + 1) ≤ f.bars.length ∧ f.scope.length = w.scopePerPkt ∧
      w.vuPerPkt = 4 ∧ k < 256
    (encodable → ∃ (i : Instr) (pkt : List Byte), encodeFrame w k f = some i ∧ exec i s = .next { s with result := .packet pkt } ∧
      pkt.length = w.pktLen v ∧
      (pkt.getD 2 0).toNat = k ∧ pkt.getD 3 0 = f.frameSeq ∧ pkt.getD 4 0 = f.brightness ∧
      (∀ i < w.barsPerPkt, (pkt.getD (5 + i) 0).toNat = min (f.bars.getD (w.barsPerPkt * k + i) 0).toNat w.barClamp.toNat) ∧
      (v ≠ .v59 → ∀ i < w.scopePerPkt, (pkt.getD (5 + w.barsPerPkt + i) 0).toNat = min (f.scope.getD i 0).toNat w.scopeClamp.toNat) ∧
      (v = .v116 → ∀ i : Fin 4, (pkt.getD (5 + w.barsPerPkt + w.scopePerPkt + i.val) 0).toNat =
        min (f.vu[i]).toNat w.vuClamp.toNat)) ∧
    (¬ encodable → encodeFrame (K := Number) w k f = none)

/-! ## Decoder -/

/-- `DEC.FEED` (R225 to R230): one byte in each state of the decoder; nothing outside DEC changes. `SYNC0` and `SYNC1` are the record's
(R7; 0xAA and 0x55 by default). -/
def Obligations.FeedTakesOneByte : Prop :=
  ∀ (b : Byte) (s : State),
    (s.dec.st = .s0 → exec (.decFeed b) s = .next { s with
      dec := { s.dec with st := if b = s.cfg.wire.sync0 then .s1 else .s0 }, result := .frames [] }) ∧
    (s.dec.st = .s1 → exec (.decFeed b) s = .next { s with
      dec := { s.dec with
        st := if b = s.cfg.wire.sync1 then .s2 else if b = s.cfg.wire.sync0 then .s1 else .s0
        cur := if b = s.cfg.wire.sync1 then 0 else s.dec.cur }
      result := .frames [] }) ∧
    (s.dec.st = .s2 → s.dec.cur < s.cfg.wire.bodyLen s.cfg.decVariant → exec (.decFeed b) s = .next { s with
      dec := { st := .s2, cur := s.dec.cur + 1, buf := s.dec.buf.set s.dec.cur b }, result := .frames [] }) ∧
    (s.dec.st = .s2 → s.dec.cur = s.cfg.wire.bodyLen s.cfg.decVariant → s.dec.buf.length = s.cfg.wire.bodyLen s.cfg.decVariant + 1 →
      exec (.decFeed b) s = .next { s with
        dec := { st := .s0, cur := s.dec.cur + 1, buf := s.dec.buf.set s.dec.cur b }
        result := .frames (if xorFold (s.dec.buf.take (s.cfg.wire.bodyLen s.cfg.decVariant)) = b
          then [parseBody s.cfg.wire s.cfg.decVariant (s.dec.buf.take (s.cfg.wire.bodyLen s.cfg.decVariant))] else []) })

/-- The rows of S0 and S1 (R226 to R228): the transitions of the sync search; the cursor is reset on the way into S2 and nothing
else of the decoder or of any other unit changes. `SYNC0` and `SYNC1` are the record's (R7; 0xAA and 0x55 by default), and the row of a
second `SYNC0` in S1 is there when the two differ. -/
def Obligations.SyncRowsMoveTheDecoder : Prop :=
  (∀ s : State, s.dec.st = .s0 →
    exec .decS0Sync0 s = .next { s with dec := { s.dec with st := .s1 }, result := .frames [] }) ∧
  (∀ (b : Byte) (s : State), s.dec.st = .s0 → b ≠ s.cfg.wire.sync0 →
    exec (.decS0Other b) s = .next { s with result := .frames [] }) ∧
  (∀ s : State, s.dec.st = .s1 →
    exec .decS1Sync1 s = .next { s with dec := { s.dec with st := .s2, cur := 0 }, result := .frames [] }) ∧
  (∀ s : State, s.dec.st = .s1 → s.cfg.wire.sync0 ≠ s.cfg.wire.sync1 →
    exec .decS1Sync0 s = .next { s with result := .frames [] }) ∧
  (∀ (b : Byte) (s : State), s.dec.st = .s1 → b ≠ s.cfg.wire.sync0 → b ≠ s.cfg.wire.sync1 →
    exec (.decS1Other b) s = .next { s with dec := { s.dec with st := .s0 }, result := .frames [] })

/-- The filling row of S2 (R229): the byte is stored at the cursor, the cursor advances by one, the decoder stays in S2 and returns
nothing; no byte value is special. -/
def Obligations.BodyRowStoresTheByte : Prop :=
  ∀ (b : Byte) (s : State), s.dec.st = .s2 → s.dec.cur < s.cfg.wire.bodyLen s.cfg.decVariant →
    exec (.decS2Body b) s = .next { s with
      dec := { st := .s2, cur := s.dec.cur + 1, buf := s.dec.buf.set s.dec.cur b }, result := .frames [] }

/-- The completing row of S2 (R230): the byte is the received checksum; the frame of the body (R231) is emitted when the XOR of the body
equals it and nothing otherwise; either way the decoder returns to S0. -/
def Obligations.CheckRowComparesTheChecksum : Prop :=
  ∀ (b : Byte) (s : State), s.dec.st = .s2 → s.dec.cur = s.cfg.wire.bodyLen s.cfg.decVariant →
    s.dec.buf.length = s.cfg.wire.bodyLen s.cfg.decVariant + 1 →
    exec (.decS2Check b) s = .next { s with
      dec := { st := .s0, cur := s.cfg.wire.bodyLen s.cfg.decVariant + 1, buf := s.dec.buf.set (s.cfg.wire.bodyLen s.cfg.decVariant) b }
      result := .frames (if xorFold (s.dec.buf.take (s.cfg.wire.bodyLen s.cfg.decVariant)) = b
        then [parseBody s.cfg.wire s.cfg.decVariant (s.dec.buf.take (s.cfg.wire.bodyLen s.cfg.decVariant))] else []) }

/-- Every byte-class row is the byte it is written in, fed to the decoder: the rows of R98 and the pseudocode of R225 agree in every
state (off its position a row is read so by the model's choice, log 9). -/
def Obligations.ByteClassRowsAreTheByteFed : Prop :=
  ∀ (i : Instr) (b : Byte) (s : State), encode s.cfg.wire i = .wire b → exec i s = exec (.decFeed b) s

/-- `parse` delivers the fields by position and exactly as received (R231). -/
def Obligations.ParseDeliversFieldsAsReceived : Prop :=
  ∀ (w : WireFormat) (v : Variant) (body : List Byte), body.length = w.bodyLen v →
    (parseBody w v body).boardId = body.getD 0 0 ∧ (parseBody w v body).frameSeq = body.getD 1 0 ∧
    (parseBody w v body).brightness = body.getD 2 0 ∧
    (parseBody w v body).bars = (body.drop 3).take w.barsPerPkt ∧
    (parseBody w v body).scope = (if v = .v59 then none else some ((body.drop (3 + w.barsPerPkt)).take w.scopePerPkt)) ∧
    (parseBody w v body).vu = (if v = .v116 then some (body.drop (3 + w.barsPerPkt + w.scopePerPkt)) else none)

/-- `DEC.VALIDATE` (R232): for every buffer and state it completes and changes no state; it returns the parsed body exactly when size,
sync marker and checksum are right, and none otherwise. -/
def Obligations.ValidateAcceptsExactlyValidPackets : Prop :=
  ∀ (buf : List Byte) (s : State),
    let v := s.cfg.decVariant
    let w := s.cfg.wire
    ∃ r : Option DecodedFrame, exec (.decValidate buf) s = .next { s with result := .validated r } ∧
      ∀ f, r = some f ↔
        (buf.length = w.pktLen v ∧ buf.getD 0 0 = w.sync0 ∧ buf.getD 1 0 = w.sync1 ∧
          xorFold ((buf.drop 2).take (w.bodyLen v)) = buf.getD (w.pktLen v - 1) 0 ∧
          f = parseBody w v ((buf.drop 2).take (w.bodyLen v)))

/-- The packet rows (R91 to R93, R232): a datagram of a format, its arrays of the counts per packet and the three formats of three
lengths, is delivered, field for field, by a receiver of that format when its checksum is the XOR of its fields, and dropped otherwise;
no state changes (the reading of the rows is the model's, log 8). -/
def Obligations.PacketRowsDeliverTheirFields : Prop :=
  ∀ (boardId frameSeq brightness : Byte) (bars scope vu : List Byte) (ck : Byte) (s : State),
    PacketArrays s.cfg.wire bars scope vu → 0 < s.cfg.wire.scopePerPkt → 0 < s.cfg.wire.vuPerPkt →
    exec (.pktV116 boardId frameSeq brightness bars scope vu ck) s = .next { s with
      result := .validated (if s.cfg.decVariant = .v116 ∧
          ck = xorFold ([boardId, frameSeq, brightness] ++ bars ++ scope ++ vu)
        then some ⟨boardId, frameSeq, brightness, bars, some scope, some vu⟩ else none) } ∧
    exec (.pktV112 boardId frameSeq brightness bars scope ck) s = .next { s with
      result := .validated (if s.cfg.decVariant = .v112 ∧
          ck = xorFold ([boardId, frameSeq, brightness] ++ bars ++ scope)
        then some ⟨boardId, frameSeq, brightness, bars, some scope, none⟩ else none) } ∧
    exec (.pktV59 boardId frameSeq brightness bars ck) s = .next { s with
      result := .validated (if s.cfg.decVariant = .v59 ∧ ck = xorFold ([boardId, frameSeq, brightness] ++ bars)
        then some ⟨boardId, frameSeq, brightness, bars, none, none⟩ else none) }

/-- Round trip by datagram (R233): what the encoder returns for in-range operands, the validator of the same variant gives back
field for field. -/
def Obligations.DatagramRoundTrip : Prop :=
  ∀ (boardId frameSeq brightness : Byte) (bars : List Byte) (scopeEn : Bool) (scope : List Byte) (vuEn : Bool)
    (vu : List Byte) (s : State), InWireRange s.cfg.wire bars scope vu → s.cfg.encVariant = s.cfg.decVariant →
    ∃ (pkt : List Byte) (t : State),
      exec (.encEncode boardId frameSeq brightness bars scopeEn scope vuEn vu) s = .next t ∧ t.result = .packet pkt ∧
      exec (.decValidate pkt) t = .next { t with
        result := .validated (some (sentFrame s.cfg.decVariant boardId frameSeq brightness bars scopeEn scope vuEn vu)) }

/-- Round trip by stream (R233): the encoder's packet as the next inputs of a decoder in S0, byte by byte: nothing is returned by
the first `PKT_LEN - 1` bytes, the frame by the last, and the decoder is in S0 again. -/
def Obligations.StreamRoundTrip : Prop :=
  ∀ (boardId frameSeq brightness : Byte) (bars : List Byte) (scopeEn : Bool) (scope : List Byte) (vuEn : Bool)
    (vu : List Byte) (s : State) (rest : List Input), s.cfg.Valid → InWireRange s.cfg.wire bars scope vu →
    s.dec.st = .s0 → s.dec.buf.length = s.cfg.wire.bodyLen s.cfg.decVariant + 1 →
    let v := s.cfg.decVariant
    let pkt := encodePacket s.cfg.wire v boardId frameSeq brightness bars scopeEn scope vuEn vu
    s.inbox = feedInputs pkt ++ rest →
      (∀ k, 1 ≤ k → k < s.cfg.wire.pktLen v → ∃ t : State, Sys2Proof.core.run k s = .next t ∧ t.result = .frames []) ∧
      ∃ t : State, Sys2Proof.core.run (s.cfg.wire.pktLen v) s = .next t ∧ t.inbox = rest ∧ t.dec.st = .s0 ∧
        t.result = .frames [sentFrame v boardId frameSeq brightness bars scopeEn scope vuEn vu]

/-- Flipping any single bit of a packet the validator accepts makes it return none (R234). -/
def Obligations.SingleBitFlipIsRejected : Prop :=
  ∀ (pkt : List Byte) (s t : State) (f : DecodedFrame) (k bit : Nat), k < pkt.length → bit < 8 →
    exec (.decValidate pkt) s = .next t → t.result = .validated (some f) →
      exec (.decValidate (pkt.set k (pkt.getD k 0 ^^^ BitVec.twoPow 8 bit))) s =
        .next { s with result := .validated none }

/-- Resynchronisation (R235, and R236 for a prefix of `SYNC0` bytes): from S0, garbage without a pair `SYNC0` `SYNC1` (0xAA 0x55 by
default; the two differ) followed by a valid packet yields exactly that packet's frame, and the decoder is in S0 again. -/
def Obligations.GarbageBeforeAPacketCostsNothing : Prop :=
  ∀ (w : WireFormat) (v : Variant) (d : DecState) (garbage pkt : List Byte) (f : DecodedFrame), w.sync0 ≠ w.sync1 →
    d.st = .s0 → d.buf.length = w.bodyLen v + 1 → NoSyncPair w garbage → validatePacket w v pkt = some f →
      (decFeedAll w v d (garbage ++ pkt)).2 = [f] ∧ (decFeedAll w v d (garbage ++ pkt)).1.st = .s0

/-- The recovery bound (R237): whatever the bytes, a decoder that entered S2 is in S2 through the next `BODY_LEN` bytes and in S0 after
exactly `BODY_LEN + 1`, having emitted at most one frame. -/
def Obligations.BodyWindowEndsAfterItsLength : Prop :=
  ∀ (w : WireFormat) (v : Variant) (d : DecState) (bytes : List Byte), d.st = .s2 → d.cur = 0 → d.buf.length = w.bodyLen v + 1 →
    (bytes.length ≤ w.bodyLen v → (decFeedAll w v d bytes).1.st = .s2 ∧ (decFeedAll w v d bytes).2 = []) ∧
    (bytes.length = w.bodyLen v + 1 → (decFeedAll w v d bytes).1.st = .s0 ∧ (decFeedAll w v d bytes).2.length ≤ 1)

/-! ## Frame slot -/

/-- `FS.PUBLISH` (R251): the three arrays are replaced together and nothing else changes; arrays of other lengths, which the port cannot
express (U7), are rejected with no state written (log 7). -/
def Obligations.PublishReplacesTheSlot : Prop :=
  ∀ (bars scope : List Byte) (vu : Vector Byte 4) (s : State),
    (bars.length = s.cfg.nBands → scope.length = s.cfg.scopeCols →
      exec (.fsPublish bars scope vu) s = .next { s with fs := ⟨bars, scope, vu, s.fs.seq⟩, result := .done }) ∧
    ((bars.length ≠ s.cfg.nBands ∨ scope.length ≠ s.cfg.scopeCols) →
      exec (.fsPublish bars scope vu) s = .next { s with result := .refused .operandShape })

/-- `FS.TICK` (R252): the frame is a copy of the slot with the sequence number before the increment; the number advances modulo 256 and
nothing else changes. -/
def Obligations.TickReturnsTheSlot : Prop :=
  ∀ (brightness : Byte) (s : State), ∃ t : State, exec (.fsTick brightness) s = .next t ∧
    t = { s with fs := { s.fs with seq := t.fs.seq },
                 result := .frame ⟨s.fs.seq, brightness, s.fs.bars, s.fs.scope, s.fs.vu⟩ } ∧
    t.fs.seq.toNat = (s.fs.seq.toNat + 1) % 256

/-- Ticks with no publish between them (R253): the `n + 1`-th of them returns the slot as it stands with the sequence number `n` further,
modulo 256. -/
def Obligations.RepeatedTicksReturnTheSameSlot : Prop :=
  ∀ (n : Nat) (brightness : Byte) (s : State) (rest : List Input), s.cfg.Valid →
    s.inbox = List.replicate (n + 1) (.word (encode s.cfg.wire (.fsTick brightness))) ++ rest →
      ∃ (t : State) (f : Frame), Sys2Proof.core.run (n + 1) s = .next t ∧ t.inbox = rest ∧ t.result = .frame f ∧
        f.frameSeq.toNat = (s.fs.seq.toNat + n) % 256 ∧ f.brightness = brightness ∧
        f.bars = s.fs.bars ∧ f.scope = s.fs.scope ∧ f.vu = s.fs.vu

/-! ## Shared numeric functions and tables -/

/-- `rne` (R124): an integer nearest to `v`, and at a tie the even one; monotone; between integers that bound `v`. -/
def Obligations.RneRoundsToNearestEven : Prop :=
  ∀ (K : Type) [Field K] [LinearOrder K] [IsStrictOrderedRing K] [FloorRing K] (v : K),
    |(rne v : K) - v| ≤ 1 / 2 ∧ (|(rne v : K) - v| = 1 / 2 → rne v % 2 = 0) ∧
    (∀ w : K, v ≤ w → rne v ≤ rne w) ∧
    (∀ a b : Int, (a : K) ≤ v → v ≤ (b : K) → a ≤ rne v ∧ rne v ≤ b)

/-- `to_db` (R122) with `MAG_FLOOR = 10^-10`: monotone, never below -200 dB, -200 at 0 and 0 at 1, and 20 dB higher for ten times a
value at or above the floor. The laws of the numerics it rests on (R9, and the factor of ten, log 17) hold of the functions of every
record and of the exact functions. -/
def Obligations.ToDbIsMonotoneAndBounded : Prop :=
  (∀ c : Config, c.fns.Laws) ∧ NumFns.exact.Laws ∧
  ∀ (K : Type) [Field K] [LinearOrder K] [IsStrictOrderedRing K] (f : NumFns K), f.Laws →
    (∀ u v : K, u ≤ v → toDb f (1 / 10 ^ 10) u ≤ toDb f (1 / 10 ^ 10) v) ∧
    (∀ v : K, -200 ≤ toDb f (1 / 10 ^ 10) v) ∧ toDb f (1 / 10 ^ 10) 0 = -200 ∧ toDb f (1 / 10 ^ 10) 1 = 0 ∧
    (∀ v : K, 1 / 10 ^ 10 ≤ v → toDb f (1 / 10 ^ 10) (10 * v) = toDb f (1 / 10 ^ 10) v + 20)

/-- The tracker and the smoother move between the old value and the measured one (R126, R131). -/
def Obligations.TrackAndSmoothStayBetween : Prop :=
  ∀ (K : Type) [Field K] [LinearOrder K] [IsStrictOrderedRing K] (old new rise rel : K),
    0 < rise → rise ≤ 1 → 0 < rel → rel ≤ 1 →
    min old new ≤ track old new rise rel ∧ track old new rise rel ≤ max old new ∧
    min old new ≤ smooth old new rise rel ∧ smooth old new rise rel ≤ max old new

/-- The width lemma of R129: a tracker at or above the floor gives a window of positive width, at least the smaller of range and
headroom and at most the range. -/
def Obligations.WindowWidthIsPositive : Prop :=
  ∀ (K : Type) [Field K] [LinearOrder K] [IsStrictOrderedRing K] (tp headroom range dbFloor : K),
    dbFloor ≤ tp → 0 < headroom → 0 < range →
    let w := displayWindow tp headroom range dbFloor
    min range headroom ≤ w.ceil - w.floor ∧ 0 < w.ceil - w.floor ∧ w.ceil - w.floor ≤ range

/-- `span` (R140): in a valid configuration every band covers at least one bin and every bin it covers exists. -/
def Obligations.SpansStayInsideTheSpectrum : Prop :=
  ∀ (K : Type) [Field K] [LinearOrder K] [IsStrictOrderedRing K] (c : ConfigOf K) (i : Nat), c.Valid → i < c.nBands →
    (span c.edges i).1 < (span c.edges i).2 ∧ (span c.edges i).2 - 1 ≤ c.nb / 2

/-- The recommended generator (R137) computes the formula over the reals, floor and clamp included, and its table meets R136; on a
rational record it computes the same table as on that record read as reals. The default
window table (R138) has `NB` entries, is 0 at both ends and symmetric, and over the reals is the Hann formula; the machine's own table
takes the cosine from its numerics (log 1, log 17). -/
def Obligations.GeneratedTablesAreTheFormulas : Prop :=
  (∀ c : ConfigOf ℝ, 1 ≤ c.nb → 1 ≤ c.nBands → 0 < c.fminHz → c.fminHz < c.fmaxHz → 0 < c.fsHz →
    (edgesGenerated c).length = c.nBands + 1 ∧ ConfigOf.nondecreasing (edgesGenerated c) = true ∧
    ∀ j, j ≤ c.nBands →
      ((edgesGenerated c).getD j 0 : Int) = max 0 (min ((c.nb / 2 : Nat) : Int)
        ⌊c.fminHz * (c.fmaxHz / c.fminHz) ^ ((j : ℝ) / (c.nBands : ℝ)) * (c.nb : ℝ) / c.fsHz⌋)) ∧
  (∀ c : Config, edgesGenerated (realConfig c) = edgesGenerated c) ∧
  (∀ (K : Type) [Field K] [LinearOrder K] [IsStrictOrderedRing K] (f : NumFns K) (nb : Nat), f.Laws → 2 ≤ nb →
    (hannWindow f nb).length = nb ∧ (hannWindow f nb)[0]? = some 0 ∧ (hannWindow f nb)[nb - 1]? = some 0 ∧
    ∀ n < nb, (hannWindow f nb)[n]? = (hannWindow f nb)[nb - 1 - n]?) ∧
  (∀ nb n : Nat, n < nb →
    (hannWindow NumFns.exact nb)[n]? = some (1 / 2 * (1 - Real.cos (2 * Real.pi * n / ((nb - 1 : Nat) : ℝ)))))

/-- The machine's rational numbers are the real numbers of R9 and R121 wherever the data are rational (log 1): read as reals, a step of
the machine is the step of the block over the reals, its state elements and its result alike, with real functions that answer at
rational arguments what the record's functions answer; with the exact functions of R9 for every instruction but `SA.PROCESS` and
`LM.PROCESS`, and for these from the levels on. -/
def Obligations.RationalRunsAreRealRuns : Prop :=
  (∀ (f : NumFns ℝ) (s t : State) (input : Input) (rest : List Input), AgreesWith f s.cfg.fns → s.inbox = input :: rest →
    step s = .next t →
      BlockState.step f (realConfig s.cfg) (realInput input) (realBlock s.toBlockState) = (realBlock t.toBlockState, t.result)) ∧
  (∀ (f : NumFns ℝ) (i : Instr) (s t : State), AgreesWith f s.cfg.fns → exec i s = .next t →
    BlockState.exec f (realConfig s.cfg) (realInstr i) (realBlock s.toBlockState) = (realBlock t.toBlockState, t.result)) ∧
  (∀ (i : Instr) (s t : State), unitOf i ≠ .sa → unitOf i ≠ .lm → exec i s = .next t →
    BlockState.exec NumFns.exact (realConfig s.cfg) (realInstr i) (realBlock s.toBlockState) = (realBlock t.toBlockState, t.result)) ∧
  (∀ (c : Config) (d : List Number) (sa : SaState Number),
    realSa (saUpdate c d sa) = saUpdate (realConfig c) (reals d) (realSa sa) ∧
    saBars (saUpdate c d sa) = saBars (saUpdate (realConfig c) (reals d) (realSa sa))) ∧
  (∀ (c : Config) (l r : Number) (lm : LmState Number),
    realLm (lmUpdate c l r lm) = lmUpdate (realConfig c) (l : ℝ) (r : ℝ) (realLm lm) ∧
    lmLevels c (lmUpdate c l r lm) = lmLevels (realConfig c) (lmUpdate (realConfig c) (l : ℝ) (r : ℝ) (realLm lm))) ∧
  (∀ (c : Config) (f : NumFns ℝ) (blk : List Number), AgreesWith f c.fns →
    reals (bandLevels c.fns c blk) = bandLevels f (realConfig c) (reals blk) ∧
    ((channelLevel c.fns c blk : Number) : ℝ) = channelLevel f (realConfig c) (reals blk)) ∧
  (∀ c : Config, (realConfig c).Valid ↔ c.Valid)
end

