-- ==== Sys2Proof/Laws/State.lean ====
section
/-!
SUPPORT. One lemma per field per state update, true by `rfl`, so that no later proof unfolds a record update.
-/

namespace Sys2Proof.Machine

/-! ## `State.answer`: the machine's state after an operation -/

@[simp] theorem State.answer_toBlockState (s : State) (a : Answer Number) : (s.answer a).toBlockState = a.1 := rfl
@[simp] theorem State.answer_cfg (s : State) (a : Answer Number) : (s.answer a).cfg = s.cfg := rfl
@[simp] theorem State.answer_inbox (s : State) (a : Answer Number) : (s.answer a).inbox = s.inbox := rfl
@[simp] theorem State.answer_result (s : State) (a : Answer Number) : (s.answer a).result = a.2 := rfl
@[simp] theorem State.answer_sa (s : State) (a : Answer Number) : (s.answer a).sa = a.1.sa := rfl
@[simp] theorem State.answer_lm (s : State) (a : Answer Number) : (s.answer a).lm = a.1.lm := rfl
@[simp] theorem State.answer_wt (s : State) (a : Answer Number) : (s.answer a).wt = a.1.wt := rfl
@[simp] theorem State.answer_dec (s : State) (a : Answer Number) : (s.answer a).dec = a.1.dec := rfl
@[simp] theorem State.answer_fs (s : State) (a : Answer Number) : (s.answer a).fs = a.1.fs := rfl

/-! ## Operations of the block -/

variable {K : Type}

@[simp] theorem BlockState.reply_fst (b : BlockState K) (r : Response) : (b.reply r).1 = b := rfl
@[simp] theorem BlockState.reply_snd (b : BlockState K) (r : Response) : (b.reply r).2 = r := rfl

/-! ## `BlockState.saProcessed` -/

@[simp] theorem BlockState.saProcessed_sa [Field K] [LinearOrder K] [FloorRing K] (c : ConfigOf K) (d : List K) (b : BlockState K) :
    (b.saProcessed c d).1.sa = saUpdate c d b.sa := rfl
@[simp] theorem BlockState.saProcessed_lm [Field K] [LinearOrder K] [FloorRing K] (c : ConfigOf K) (d : List K) (b : BlockState K) :
    (b.saProcessed c d).1.lm = b.lm := rfl
@[simp] theorem BlockState.saProcessed_wt [Field K] [LinearOrder K] [FloorRing K] (c : ConfigOf K) (d : List K) (b : BlockState K) :
    (b.saProcessed c d).1.wt = b.wt := rfl
@[simp] theorem BlockState.saProcessed_dec [Field K] [LinearOrder K] [FloorRing K] (c : ConfigOf K) (d : List K) (b : BlockState K) :
    (b.saProcessed c d).1.dec = b.dec := rfl
@[simp] theorem BlockState.saProcessed_fs [Field K] [LinearOrder K] [FloorRing K] (c : ConfigOf K) (d : List K) (b : BlockState K) :
    (b.saProcessed c d).1.fs = b.fs := rfl
@[simp] theorem BlockState.saProcessed_result [Field K] [LinearOrder K] [FloorRing K] (c : ConfigOf K) (d : List K) (b : BlockState K) :
    (b.saProcessed c d).2 = .bars (saBars (saUpdate c d b.sa)) := rfl

/-! ## `BlockState.lmProcessed` -/

@[simp] theorem BlockState.lmProcessed_sa [Field K] [LinearOrder K] [FloorRing K] (c : ConfigOf K) (l r : K) (b : BlockState K) :
    (b.lmProcessed c l r).1.sa = b.sa := rfl
@[simp] theorem BlockState.lmProcessed_lm [Field K] [LinearOrder K] [FloorRing K] (c : ConfigOf K) (l r : K) (b : BlockState K) :
    (b.lmProcessed c l r).1.lm = lmUpdate c l r b.lm := rfl
@[simp] theorem BlockState.lmProcessed_wt [Field K] [LinearOrder K] [FloorRing K] (c : ConfigOf K) (l r : K) (b : BlockState K) :
    (b.lmProcessed c l r).1.wt = b.wt := rfl
@[simp] theorem BlockState.lmProcessed_dec [Field K] [LinearOrder K] [FloorRing K] (c : ConfigOf K) (l r : K) (b : BlockState K) :
    (b.lmProcessed c l r).1.dec = b.dec := rfl
@[simp] theorem BlockState.lmProcessed_fs [Field K] [LinearOrder K] [FloorRing K] (c : ConfigOf K) (l r : K) (b : BlockState K) :
    (b.lmProcessed c l r).1.fs = b.fs := rfl
@[simp] theorem BlockState.lmProcessed_result [Field K] [LinearOrder K] [FloorRing K] (c : ConfigOf K) (l r : K) (b : BlockState K) :
    (b.lmProcessed c l r).2 = lmLevels c (lmUpdate c l r b.lm) := rfl

/-! ## `BlockState.wtProcessed` -/

@[simp] theorem BlockState.wtProcessed_sa [Field K] [LinearOrder K] [FloorRing K] (c : ConfigOf K) (y : List K) (b : BlockState K) :
    (b.wtProcessed c y).1.sa = b.sa := rfl
@[simp] theorem BlockState.wtProcessed_lm [Field K] [LinearOrder K] [FloorRing K] (c : ConfigOf K) (y : List K) (b : BlockState K) :
    (b.wtProcessed c y).1.lm = b.lm := rfl
@[simp] theorem BlockState.wtProcessed_wt [Field K] [LinearOrder K] [FloorRing K] (c : ConfigOf K) (y : List K) (b : BlockState K) :
    (b.wtProcessed c y).1.wt = ⟨wtTracked c b.wt.tp y, b.wt.fault⟩ := rfl
@[simp] theorem BlockState.wtProcessed_dec [Field K] [LinearOrder K] [FloorRing K] (c : ConfigOf K) (y : List K) (b : BlockState K) :
    (b.wtProcessed c y).1.dec = b.dec := rfl
@[simp] theorem BlockState.wtProcessed_fs [Field K] [LinearOrder K] [FloorRing K] (c : ConfigOf K) (y : List K) (b : BlockState K) :
    (b.wtProcessed c y).1.fs = b.fs := rfl
@[simp] theorem BlockState.wtProcessed_result [Field K] [LinearOrder K] [FloorRing K] (c : ConfigOf K) (y : List K) (b : BlockState K) :
    (b.wtProcessed c y).2 = .trace (y.map (positionOf c (wtTracked c b.wt.tp y))) := rfl

/-! ## `BlockState.receiveDatagram` -/

@[simp] theorem BlockState.receiveDatagram_sa (c : ConfigOf K) (buf : List Byte) (b : BlockState K) : (b.receiveDatagram c buf).1.sa = b.sa := rfl
@[simp] theorem BlockState.receiveDatagram_lm (c : ConfigOf K) (buf : List Byte) (b : BlockState K) : (b.receiveDatagram c buf).1.lm = b.lm := rfl
@[simp] theorem BlockState.receiveDatagram_wt (c : ConfigOf K) (buf : List Byte) (b : BlockState K) : (b.receiveDatagram c buf).1.wt = b.wt := rfl
@[simp] theorem BlockState.receiveDatagram_dec (c : ConfigOf K) (buf : List Byte) (b : BlockState K) : (b.receiveDatagram c buf).1.dec = b.dec := rfl
@[simp] theorem BlockState.receiveDatagram_fs (c : ConfigOf K) (buf : List Byte) (b : BlockState K) : (b.receiveDatagram c buf).1.fs = b.fs := rfl
@[simp] theorem BlockState.receiveDatagram_result (c : ConfigOf K) (buf : List Byte) (b : BlockState K) :
    (b.receiveDatagram c buf).2 = .validated (validatePacket c.wire c.decVariant buf) := rfl

/-! ## `BlockState.feedByte` -/

@[simp] theorem BlockState.feedByte_sa (c : ConfigOf K) (x : Byte) (b : BlockState K) : (b.feedByte c x).1.sa = b.sa := rfl
@[simp] theorem BlockState.feedByte_lm (c : ConfigOf K) (x : Byte) (b : BlockState K) : (b.feedByte c x).1.lm = b.lm := rfl
@[simp] theorem BlockState.feedByte_wt (c : ConfigOf K) (x : Byte) (b : BlockState K) : (b.feedByte c x).1.wt = b.wt := rfl
@[simp] theorem BlockState.feedByte_dec (c : ConfigOf K) (x : Byte) (b : BlockState K) :
    (b.feedByte c x).1.dec = (decFeed c.wire c.decVariant b.dec x).1 := rfl
@[simp] theorem BlockState.feedByte_fs (c : ConfigOf K) (x : Byte) (b : BlockState K) : (b.feedByte c x).1.fs = b.fs := rfl
@[simp] theorem BlockState.feedByte_result (c : ConfigOf K) (x : Byte) (b : BlockState K) :
    (b.feedByte c x).2 = .frames (decFeed c.wire c.decVariant b.dec x).2 := rfl

/-! ## `BlockState.decoded` -/

@[simp] theorem BlockState.decoded_sa (b : BlockState K) (d : DecState) (fs : List DecodedFrame) : (b.decoded d fs).1.sa = b.sa := rfl
@[simp] theorem BlockState.decoded_lm (b : BlockState K) (d : DecState) (fs : List DecodedFrame) : (b.decoded d fs).1.lm = b.lm := rfl
@[simp] theorem BlockState.decoded_wt (b : BlockState K) (d : DecState) (fs : List DecodedFrame) : (b.decoded d fs).1.wt = b.wt := rfl
@[simp] theorem BlockState.decoded_dec (b : BlockState K) (d : DecState) (fs : List DecodedFrame) : (b.decoded d fs).1.dec = d := rfl
@[simp] theorem BlockState.decoded_fs (b : BlockState K) (d : DecState) (fs : List DecodedFrame) : (b.decoded d fs).1.fs = b.fs := rfl
@[simp] theorem BlockState.decoded_result (b : BlockState K) (d : DecState) (fs : List DecodedFrame) : (b.decoded d fs).2 = .frames fs := rfl

/-! ## `BlockState.fsTick` -/

@[simp] theorem BlockState.fsTick_sa (brightness : Byte) (b : BlockState K) : (b.fsTick brightness).1.sa = b.sa := rfl
@[simp] theorem BlockState.fsTick_lm (brightness : Byte) (b : BlockState K) : (b.fsTick brightness).1.lm = b.lm := rfl
@[simp] theorem BlockState.fsTick_wt (brightness : Byte) (b : BlockState K) : (b.fsTick brightness).1.wt = b.wt := rfl
@[simp] theorem BlockState.fsTick_dec (brightness : Byte) (b : BlockState K) : (b.fsTick brightness).1.dec = b.dec := rfl
@[simp] theorem BlockState.fsTick_fs (brightness : Byte) (b : BlockState K) :
    (b.fsTick brightness).1.fs = ⟨b.fs.bars, b.fs.scope, b.fs.vu, b.fs.seq + 1⟩ := rfl
@[simp] theorem BlockState.fsTick_result (brightness : Byte) (b : BlockState K) : (b.fsTick brightness).2 = .frame (b.fs.frame brightness) := rfl

/-! ## Meanings that are one shared operation -/

@[simp] theorem BlockState.feed_eq (c : ConfigOf K) (x : Byte) (b : BlockState K) : b.feed c x = b.feedByte c x := rfl
@[simp] theorem BlockState.decValidate_eq (c : ConfigOf K) (buf : List Byte) (b : BlockState K) :
    b.decValidate c buf = b.receiveDatagram c buf := rfl
@[simp] theorem BlockState.pktV116_eq (c : ConfigOf K) (boardId frameSeq brightness : Byte) (bars scope vu : List Byte)
    (checksum : Byte) (b : BlockState K) : b.pktV116 c boardId frameSeq brightness bars scope vu checksum =
      b.receiveDatagram c (packetOf c.wire (bodyOf .v116 boardId frameSeq brightness bars scope vu) checksum) := rfl
@[simp] theorem BlockState.pktV112_eq (c : ConfigOf K) (boardId frameSeq brightness : Byte) (bars scope : List Byte)
    (checksum : Byte) (b : BlockState K) : b.pktV112 c boardId frameSeq brightness bars scope checksum =
      b.receiveDatagram c (packetOf c.wire (bodyOf .v112 boardId frameSeq brightness bars scope []) checksum) := rfl
@[simp] theorem BlockState.pktV59_eq (c : ConfigOf K) (boardId frameSeq brightness : Byte) (bars : List Byte)
    (checksum : Byte) (b : BlockState K) : b.pktV59 c boardId frameSeq brightness bars checksum =
      b.receiveDatagram c (packetOf c.wire (bodyOf .v59 boardId frameSeq brightness bars [] []) checksum) := rfl

/-! ## Reset -/

@[simp] theorem BlockState.resetWith_sa [Field K] (c : ConfigOf K) :
    (BlockState.resetWith c).sa = ⟨c.saDbFloor, List.replicate c.nBands 0, false⟩ := rfl
@[simp] theorem BlockState.resetWith_lm [Field K] (c : ConfigOf K) :
    (BlockState.resetWith c).lm = ⟨c.lmDbFloor, ⟨0, 0⟩, ⟨0, 0⟩, false⟩ := rfl
@[simp] theorem BlockState.resetWith_wt [Field K] (c : ConfigOf K) :
    (BlockState.resetWith c).wt = ⟨c.wtMinAmp, false⟩ := rfl
@[simp] theorem BlockState.resetWith_dec [Field K] (c : ConfigOf K) :
    (BlockState.resetWith c).dec = ⟨.s0, 0, List.replicate (c.wire.bodyLen c.decVariant + 1) 0⟩ := rfl
@[simp] theorem BlockState.resetWith_fs [Field K] (c : ConfigOf K) :
    (BlockState.resetWith c).fs = ⟨List.replicate c.nBands 0, List.replicate c.scopeCols 0, Vector.replicate 4 0, 0⟩ := rfl
@[simp] theorem State.resetWith_toBlockState (c : Config) : (State.resetWith c).toBlockState = BlockState.resetWith c := rfl
@[simp] theorem State.resetWith_cfg (c : Config) : (State.resetWith c).cfg = c := rfl
@[simp] theorem State.resetWith_inbox (c : Config) : (State.resetWith c).inbox = [] := rfl
@[simp] theorem State.resetWith_result (c : Config) : (State.resetWith c).result = .idle := rfl
@[simp] theorem State.afterReset_toBlockState (s : State) : s.afterReset.toBlockState = BlockState.resetWith s.cfg := rfl
@[simp] theorem State.afterReset_cfg (s : State) : s.afterReset.cfg = s.cfg := rfl
@[simp] theorem State.afterReset_inbox (s : State) : s.afterReset.inbox = s.inbox := rfl
@[simp] theorem State.afterReset_result (s : State) : s.afterReset.result = .idle := rfl

/-! ## The fault flags and the exception -/

@[simp] theorem BlockState.faulted_sa (b : BlockState K) : b.faulted .sa = b.sa.fault := rfl
@[simp] theorem BlockState.faulted_lm (b : BlockState K) : b.faulted .lm = b.lm.fault := rfl
@[simp] theorem BlockState.faulted_wt (b : BlockState K) : b.faulted .wt = b.wt.fault := rfl
@[simp] theorem BlockState.setFault_sa_sa (b : BlockState K) : (b.setFault .sa).sa = ⟨b.sa.tp, b.sa.cur, true⟩ := rfl
@[simp] theorem BlockState.setFault_sa_lm (b : BlockState K) : (b.setFault .sa).lm = b.lm := rfl
@[simp] theorem BlockState.setFault_sa_wt (b : BlockState K) : (b.setFault .sa).wt = b.wt := rfl
@[simp] theorem BlockState.setFault_lm_sa (b : BlockState K) : (b.setFault .lm).sa = b.sa := rfl
@[simp] theorem BlockState.setFault_lm_lm (b : BlockState K) : (b.setFault .lm).lm = ⟨b.lm.tp, b.lm.rms, b.lm.peak, true⟩ := rfl
@[simp] theorem BlockState.setFault_lm_wt (b : BlockState K) : (b.setFault .lm).wt = b.wt := rfl
@[simp] theorem BlockState.setFault_wt_sa (b : BlockState K) : (b.setFault .wt).sa = b.sa := rfl
@[simp] theorem BlockState.setFault_wt_lm (b : BlockState K) : (b.setFault .wt).lm = b.lm := rfl
@[simp] theorem BlockState.setFault_wt_wt (b : BlockState K) : (b.setFault .wt).wt = ⟨b.wt.tp, true⟩ := rfl
@[simp] theorem BlockState.setFault_dec (b : BlockState K) (u : Analyzer) : (b.setFault u).dec = b.dec := by cases u <;> rfl
@[simp] theorem BlockState.setFault_fs (b : BlockState K) (u : Analyzer) : (b.setFault u).fs = b.fs := by cases u <;> rfl
@[simp] theorem BlockState.raiseBlockLength_fst (b : BlockState K) (u : Analyzer) : (b.raiseBlockLength u).1 = b.setFault u := rfl
@[simp] theorem BlockState.raiseBlockLength_snd (b : BlockState K) (u : Analyzer) :
    (b.raiseBlockLength u).2 = .raised ⟨blockLengthCode, u⟩ := rfl
@[simp] theorem State.setFault_toBlockState (s : State) (u : Analyzer) : (s.setFault u).toBlockState = s.toBlockState.setFault u := rfl
@[simp] theorem State.setFault_cfg (s : State) (u : Analyzer) : (s.setFault u).cfg = s.cfg := rfl
@[simp] theorem State.setFault_inbox (s : State) (u : Analyzer) : (s.setFault u).inbox = s.inbox := rfl
@[simp] theorem State.setFault_result (s : State) (u : Analyzer) : (s.setFault u).result = s.result := rfl

/-! ## Unit updates -/

@[simp] theorem saUpdate_tp [Field K] [LinearOrder K] (c : ConfigOf K) (d : List K) (sa : SaState K) :
    (saUpdate c d sa).tp = saTracked c sa.tp d := rfl
@[simp] theorem saUpdate_fault [Field K] [LinearOrder K] (c : ConfigOf K) (d : List K) (sa : SaState K) :
    (saUpdate c d sa).fault = sa.fault := rfl
@[simp] theorem lmUpdate_tp [Field K] [LinearOrder K] (c : ConfigOf K) (l r : K) (lm : LmState K) :
    (lmUpdate c l r lm).tp = lmTracked c lm.tp l r := rfl
@[simp] theorem lmUpdate_fault [Field K] [LinearOrder K] (c : ConfigOf K) (l r : K) (lm : LmState K) :
    (lmUpdate c l r lm).fault = lm.fault := rfl
@[simp] theorem DecState.append_st (d : DecState) (b : Byte) : (d.append b).st = d.st := rfl
@[simp] theorem DecState.append_cur (d : DecState) (b : Byte) : (d.append b).cur = d.cur + 1 := rfl
@[simp] theorem DecState.append_buf (d : DecState) (b : Byte) : (d.append b).buf = d.buf.set d.cur b := rfl
@[simp] theorem FsState.frame_frameSeq (fs : FsState) (b : Byte) : (fs.frame b).frameSeq = fs.seq := rfl
@[simp] theorem FsState.frame_brightness (fs : FsState) (b : Byte) : (fs.frame b).brightness = b := rfl
@[simp] theorem FsState.frame_bars (fs : FsState) (b : Byte) : (fs.frame b).bars = fs.bars := rfl
@[simp] theorem FsState.frame_scope (fs : FsState) (b : Byte) : (fs.frame b).scope = fs.scope := rfl
@[simp] theorem FsState.frame_vu (fs : FsState) (b : Byte) : (fs.frame b).vu = fs.vu := rfl

end Sys2Proof.Machine
end

