-- ==== Sys2Proof/Laws/Ops.lean ====
section
/-!
SUPPORT. What each shared operation can do, said once: the analyzer guard, the byte-class guard, the fetch, and the step.
-/

namespace Sys2Proof.Machine

variable {K : Type}

/-! ## The analyzer guard (R272) -/

theorem BlockState.runAnalyzer_refuses {b : BlockState K} {u : Analyzer} {ok : Bool} {run : BlockState K → Answer K}
    (h : b.faulted u = true) : b.runAnalyzer u ok run = b.reply (.refused (.unitFaulted u)) := by
  simp only [BlockState.runAnalyzer, h]

theorem BlockState.runAnalyzer_runs {b : BlockState K} {u : Analyzer} {run : BlockState K → Answer K}
    (h : b.faulted u = false) : b.runAnalyzer u true run = run b := by
  simp only [BlockState.runAnalyzer, h]

theorem BlockState.runAnalyzer_raises {b : BlockState K} {u : Analyzer} {run : BlockState K → Answer K}
    (h : b.faulted u = false) : b.runAnalyzer u false run = b.raiseBlockLength u := by
  simp only [BlockState.runAnalyzer, h]

/-- Everything the analyzer guard can answer. -/
theorem BlockState.runAnalyzer_cases (b : BlockState K) (u : Analyzer) (ok : Bool) (run : BlockState K → Answer K) :
    (b.faulted u = true ∧ b.runAnalyzer u ok run = b.reply (.refused (.unitFaulted u))) ∨
    (b.faulted u = false ∧ ok = true ∧ b.runAnalyzer u ok run = run b) ∨
    (b.faulted u = false ∧ ok = false ∧ b.runAnalyzer u ok run = b.raiseBlockLength u) := by
  unfold BlockState.runAnalyzer
  split <;> simp_all

theorem blockFits_eq_true {c : ConfigOf K} {blk : List K} : blockFits c blk = true ↔ blk.length = c.nb := by
  simp [blockFits]

theorem blockFits_eq_false {c : ConfigOf K} {blk : List K} : blockFits c blk = false ↔ blk.length ≠ c.nb := by
  simp [blockFits]

theorem slotArraysFit_eq_true {c : ConfigOf K} {bars scope : List Byte} :
    slotArraysFit c bars scope = true ↔ bars.length = c.nBands ∧ scope.length = c.scopeCols := by
  simp [slotArraysFit]

/-! ## The byte-class guard (R98) -/

/-- Everything the byte-class guard can answer. -/
theorem BlockState.byteClass_cases (c : ConfigOf K) (b : BlockState K) (selected : Bool) (x : Byte) (d : DecState)
    (fs : List DecodedFrame) :
    (selected = true ∧ b.byteClass c selected x d fs = b.decoded d fs) ∨
    (selected = false ∧ b.byteClass c selected x d fs = b.feedByte c x) := by
  cases selected
  · exact .inr ⟨rfl, rfl⟩
  · exact .inl ⟨rfl, rfl⟩

/-! ## The decoder's position -/

theorem BlockState.decPos_s0 {c : ConfigOf K} {b : BlockState K} (h : b.dec.st = .s0) : b.decPos c = .s0 := by
  simp only [BlockState.decPos, h]

theorem BlockState.decPos_s1 {c : ConfigOf K} {b : BlockState K} (h : b.dec.st = .s1) : b.decPos c = .s1 := by
  simp only [BlockState.decPos, h]

theorem BlockState.decPos_s2Body {c : ConfigOf K} {b : BlockState K} (h : b.dec.st = .s2)
    (hc : b.dec.cur < c.wire.bodyLen c.decVariant) : b.decPos c = .s2Body := by simp only [BlockState.decPos, h, hc, if_true]

theorem BlockState.decPos_s2Check {c : ConfigOf K} {b : BlockState K} (h : b.dec.st = .s2)
    (hc : ¬ b.dec.cur < c.wire.bodyLen c.decVariant) : b.decPos c = .s2Check := by simp only [BlockState.decPos, h, hc, if_false]

/-! ## Fetch and step -/

theorem State.fetch_empty {s : State} (h : s.inbox = []) : s.fetch = none := by simp only [State.fetch, h]

theorem State.fetch_cons {s : State} {i : Input} {rest : List Input} (h : s.inbox = i :: rest) :
    s.fetch = some (i, { s with inbox := rest }) := by simp only [State.fetch, h]

/-- With a valid configuration a step takes the next input, if there is one. -/
theorem step_of_valid {s : State} (h : s.cfg.Valid) :
    step s = match s.fetch with
      | none => .next s
      | some (input, s') => stepInput input s' := by
  unfold step
  exact if_pos h

/-- A run whose first step answers `t` goes on from `t`. -/
theorem run_succ {k : Nat} {s t : State} (h : step s = .next t) :
    Sys2Proof.core.run (k + 1) s = Sys2Proof.core.run k t := by
  have h' : Sys2Proof.core.step s = .next t := h
  simp only [Host.Core.run, h']

/-- Everything a step can do. -/
theorem step_cases {s t : State} (h : step s = .next t) :
    s.cfg.Valid ∧
    ((s.inbox = [] ∧ t = s) ∨
     (∃ rest, s.inbox = .reset :: rest ∧ t = State.afterReset { s with inbox := rest }) ∨
     (∃ w rest i, s.inbox = .word w :: rest ∧ decode s.cfg.wire s.decPos w = .ok i ∧ exec i { s with inbox := rest } = .next t) ∨
     (∃ w rest e, s.inbox = .word w :: rest ∧ decode s.cfg.wire s.decPos w = .error e ∧
        t = { s with inbox := rest, result := .refused (refusalOf e) })) := by
  unfold step at h
  split at h
  · rename_i hv
    refine ⟨hv, ?_⟩
    cases hb : s.inbox with
    | nil =>
      rw [State.fetch_empty hb] at h
      injection h with h
      exact .inl ⟨rfl, h.symm⟩
    | cons i rest =>
      rw [State.fetch_cons hb] at h
      cases i with
      | reset =>
        injection h with h
        exact .inr (.inl ⟨rest, rfl, h.symm⟩)
      | word w =>
        simp only [stepInput] at h
        have hp : State.decPos { s with inbox := rest } = s.decPos := rfl
        rw [hp] at h
        split at h
        · rename_i i hd
          exact .inr (.inr (.inl ⟨w, rest, i, rfl, hd, h⟩))
        · rename_i e hd
          injection h with h
          exact .inr (.inr (.inr ⟨w, rest, e, rfl, hd, h.symm⟩))
  · cases h

end Sys2Proof.Machine
end

