-- ==== Sys2Proof/Laws/Wire.lean ====
section
/-!
SUPPORT. What the shared operations over bytes can do, said once: the checksum, the slices of a packet, the validator, and
one byte of the streaming decoder in each of its states.
-/

namespace Sys2Proof

theorem toArrayOperand_toList {n : Nat} (v : Vector Byte n) : toArrayOperand n v.toList = some v := by
  rw [toArrayOperand, dif_pos (by simp)]
  congr 1

theorem toList_of_toArrayOperand {n : Nat} {bs : List Byte} {v : Vector Byte n} (h : toArrayOperand n bs = some v) :
    v.toList = bs := by
  unfold toArrayOperand at h
  split at h
  · injection h with h
    subst h
    simp [Vector.toList]
  · cases h

theorem bytesAt_length {n off : Nat} {buf : List Byte} (h : off + n ≤ buf.length) : (bytesAt n off buf).length = n := by
  simp [bytesAt]; omega

theorem bytesAt_append {n off : Nat} {pre mid : List Byte} (post : List Byte) (ho : pre.length = off) (hm : mid.length = n) :
    bytesAt n off (pre ++ mid ++ post) = mid := by
  subst ho hm
  simp [bytesAt]

theorem encoderArraysFit_eq_true {f : WireFormat} {bars scope vu : List Byte} :
    encoderArraysFit f bars scope vu = true ↔
      bars.length = f.barsPerPkt ∧ scope.length = f.scopePerPkt ∧ vu.length = f.vuPerPkt := by
  simp [encoderArraysFit, and_assoc]

theorem bodyOf_length {f : WireFormat} (v : Variant) {bars scope vu : List Byte} (hb : bars.length = f.barsPerPkt)
    (hs : v.hasScope = true → scope.length = f.scopePerPkt) (hv : v.hasVu = true → vu.length = f.vuPerPkt)
    (boardId frameSeq brightness : Byte) : (bodyOf v boardId frameSeq brightness bars scope vu).length = f.bodyLen v := by
  cases v <;> simp_all [bodyOf, WireFormat.bodyLen, Variant.hasScope, Variant.hasVu] <;> omega

theorem packetOf_length (f : WireFormat) (body : List Byte) (checksum : Byte) :
    (packetOf f body checksum).length = body.length + 3 := by simp [packetOf]

theorem packetOf_hasSync (f : WireFormat) (body : List Byte) (checksum : Byte) : hasSync f (packetOf f body checksum) = true := by
  simp [hasSync, packetOf]

theorem packetOf_bodyOf_length {f : WireFormat} (v : Variant) {bars scope vu : List Byte} (hb : bars.length = f.barsPerPkt)
    (hs : v.hasScope = true → scope.length = f.scopePerPkt) (hv : v.hasVu = true → vu.length = f.vuPerPkt)
    (boardId frameSeq brightness checksum : Byte) :
    (packetOf f (bodyOf v boardId frameSeq brightness bars scope vu) checksum).length = f.pktLen v := by
  rw [packetOf_length, bodyOf_length v hb hs hv, WireFormat.pktLen]

namespace Machine

theorem xorBytes_append (a b : List Byte) : xorBytes (a ++ b) = xorBytes a ^^^ xorBytes b := by
  induction a with
  | nil => simp [xorBytes]
  | cons x a ih => simp [xorBytes, ih, BitVec.xor_assoc]

theorem foldl_xor (bs : List Byte) (a : Byte) : bs.foldl (fun a b => a ^^^ b) a = a ^^^ xorBytes bs := by
  induction bs generalizing a with
  | nil => simp [xorBytes]
  | cons b bs ih => simp [xorBytes, ih, BitVec.xor_assoc]

theorem clampByte_toNat (v limit : Byte) : (clampByte v limit).toNat = min v.toNat limit.toNat := by
  unfold clampByte
  split <;> omega

theorem sectionBytes_length (e : Bool) (limit : Byte) (operand : List Byte) :
    (sectionBytes e limit operand).length = operand.length := by
  cases e <;> simp [sectionBytes]

/-! ## One byte of the streaming decoder (R225) -/

theorem decFeed_s0 {f : WireFormat} {v : Variant} {d : DecState} {b : Byte} (h : d.st = .s0) :
    decFeed f v d b = (if b = f.sync0 then { d with st := .s1 } else d, []) := by simp only [decFeed, h]

theorem decFeed_s1 {f : WireFormat} {v : Variant} {d : DecState} {b : Byte} (h : d.st = .s1) :
    decFeed f v d b =
      (if b = f.sync1 then { d with st := .s2, cur := 0 } else if b = f.sync0 then d else { d with st := .s0 }, []) := by
  simp only [decFeed, h]

theorem decFeed_body {f : WireFormat} {v : Variant} {d : DecState} {b : Byte} (h : d.st = .s2) (hc : d.cur < f.bodyLen v) :
    decFeed f v d b = (d.append b, []) := by
  simp only [decFeed, h]
  rw [if_pos (by simpa [DecState.append] using hc)]

theorem decFeed_check {f : WireFormat} {v : Variant} {d : DecState} {b : Byte} (h : d.st = .s2) (hc : ¬ d.cur < f.bodyLen v) :
    decFeed f v d b = ({ d.append b with st := .s0 }, (d.append b).emitted f v) := by
  simp only [decFeed, h]
  rw [if_neg (by simpa [DecState.append] using hc)]

theorem decFeedAll_nil (f : WireFormat) (v : Variant) (d : DecState) : decFeedAll f v d [] = (d, []) := rfl

theorem decFeedAll_append (f : WireFormat) (v : Variant) (d : DecState) (a b : List Byte) :
    decFeedAll f v d (a ++ b) =
      ((decFeedAll f v (decFeedAll f v d a).1 b).1, (decFeedAll f v d a).2 ++ (decFeedAll f v (decFeedAll f v d a).1 b).2) := by
  induction a generalizing d with
  | nil => simp [decFeedAll]
  | cons x a ih => simp [decFeedAll, ih, List.append_assoc]

end Machine

end Sys2Proof
end

