-- ==== Sys2Proof/Laws/Exec.lean ====
section
/-!
SUPPORT. Each operation as the effect it has on its own unit: a function of the configuration record and of that unit's state alone,
giving the unit's new state and the result. The operation of the block writes that and nothing else, and `exec` is that operation.
-/

namespace Sys2Proof.Machine

variable {K : Type}

section Effects

variable [Field K] [LinearOrder K] [FloorRing K]

/-- The effect of `SA.PROCESS` on the spectrum analyzer. -/
def saEffect (f : NumFns K) (blk : List K) (c : ConfigOf K) (sa : SaState K) : SaState K × Response :=
  match sa.fault, blockFits c blk with
  | true, _ => (sa, .refused (.unitFaulted .sa))
  | false, true => (saUpdate c (bandLevels f c blk) sa, .bars (saBars (saUpdate c (bandLevels f c blk) sa)))
  | false, false => ({ sa with fault := true }, .raised ⟨blockLengthCode, .sa⟩)

/-- The effect of `LM.PROCESS` on the level meter. -/
def lmEffect (f : NumFns K) (left right : List K) (c : ConfigOf K) (lm : LmState K) : LmState K × Response :=
  match lm.fault, blockFits c left && blockFits c right with
  | true, _ => (lm, .refused (.unitFaulted .lm))
  | false, true =>
    let lm' := lmUpdate c (channelLevel f c left) (channelLevel f c right) lm
    (lm', lmLevels c lm')
  | false, false => ({ lm with fault := true }, .raised ⟨blockLengthCode, .lm⟩)

/-- The effect of `WT.PROCESS` on the waveform tracer. -/
def wtEffect (blk : List K) (c : ConfigOf K) (wt : WtState K) : WtState K × Response :=
  match wt.fault, blockFits c blk with
  | true, _ => (wt, .refused (.unitFaulted .wt))
  | false, true =>
    ({ wt with tp := wtTracked c wt.tp (traceOf c blk) }, .trace ((traceOf c blk).map (positionOf c (wtTracked c wt.tp (traceOf c blk)))))
  | false, false => ({ wt with fault := true }, .raised ⟨blockLengthCode, .wt⟩)

theorem BlockState.saProcess_eq (f : NumFns K) (c : ConfigOf K) (blk : List K) (b : BlockState K) :
    b.saProcess f c blk = ({ b with sa := (saEffect f blk c b.sa).1 }, (saEffect f blk c b.sa).2) := by
  cases hf : b.sa.fault <;> cases hb : blockFits c blk <;>
    simp [BlockState.saProcess, BlockState.runAnalyzer, saEffect, hf, hb, BlockState.saProcessed, BlockState.raiseBlockLength,
      BlockState.setFault, BlockState.reply]

theorem BlockState.lmProcess_eq (f : NumFns K) (c : ConfigOf K) (left right : List K) (b : BlockState K) :
    b.lmProcess f c left right = ({ b with lm := (lmEffect f left right c b.lm).1 }, (lmEffect f left right c b.lm).2) := by
  cases hf : b.lm.fault <;> cases hb : (blockFits c left && blockFits c right) <;>
    simp [BlockState.lmProcess, BlockState.runAnalyzer, lmEffect, hf, hb, BlockState.lmProcessed, BlockState.raiseBlockLength,
      BlockState.setFault, BlockState.reply]

theorem BlockState.wtProcess_eq (c : ConfigOf K) (blk : List K) (b : BlockState K) :
    b.wtProcess c blk = ({ b with wt := (wtEffect blk c b.wt).1 }, (wtEffect blk c b.wt).2) := by
  cases hf : b.wt.fault <;> cases hb : blockFits c blk <;>
    simp [BlockState.wtProcess, BlockState.runAnalyzer, wtEffect, hf, hb, BlockState.wtProcessed, BlockState.raiseBlockLength,
      BlockState.setFault, BlockState.reply]

end Effects

/-- The effect of a wire byte on the streaming decoder. -/
def feedEffect (x : Byte) (c : ConfigOf K) (d : DecState) : DecState × Response :=
  ((decFeed c.wire c.decVariant d x).1, .frames (decFeed c.wire c.decVariant d x).2)

/-- The effect of `FS.PUBLISH` on the slot. -/
def publishEffect (bars scope : List Byte) (vu : Vector Byte 4) (c : ConfigOf K) (fs : FsState) : FsState × Response :=
  match slotArraysFit c bars scope with
  | true => ({ fs with bars := bars, scope := scope, vu := vu }, .done)
  | false => (fs, .refused .operandShape)

/-- The effect of `FS.TICK` on the slot. -/
def tickEffect (brightness : Byte) (fs : FsState) : FsState × Response :=
  ({ fs with seq := fs.seq + 1 }, .frame (fs.frame brightness))

/-- What `ENC.ENCODE`, which has no state, returns. -/
def encodeAnswer (boardId frameSeq brightness : Byte) (bars : List Byte) (scopeEn : Bool) (scope : List Byte) (vuEn : Bool)
    (vu : List Byte) (c : ConfigOf K) : Response :=
  match encoderArraysFit c.wire bars scope vu with
  | true => .packet (encodePacket c.wire c.encVariant boardId frameSeq brightness bars scopeEn scope vuEn vu)
  | false => .refused .operandShape

theorem BlockState.fsPublish_eq (c : ConfigOf K) (bars scope : List Byte) (vu : Vector Byte 4) (b : BlockState K) :
    b.fsPublish c bars scope vu =
      ({ b with fs := (publishEffect bars scope vu c b.fs).1 }, (publishEffect bars scope vu c b.fs).2) := by
  cases h : slotArraysFit c bars scope <;> simp [BlockState.fsPublish, publishEffect, h, BlockState.reply]

theorem BlockState.encEncode_eq (c : ConfigOf K) (boardId frameSeq brightness : Byte) (bars : List Byte) (scopeEn : Bool)
    (scope : List Byte) (vuEn : Bool) (vu : List Byte) (b : BlockState K) :
    b.encEncode c boardId frameSeq brightness bars scopeEn scope vuEn vu =
      (b, encodeAnswer boardId frameSeq brightness bars scopeEn scope vuEn vu c) := by
  cases h : encoderArraysFit c.wire bars scope vu <;> simp [BlockState.encEncode, encodeAnswer, h, BlockState.reply]

theorem encodeAnswer_of_lengths {c : ConfigOf K} {bars scope vu : List Byte} (hb : bars.length = c.wire.barsPerPkt)
    (hs : scope.length = c.wire.scopePerPkt) (hv : vu.length = c.wire.vuPerPkt) (boardId frameSeq brightness : Byte)
    (scopeEn vuEn : Bool) :
    encodeAnswer boardId frameSeq brightness bars scopeEn scope vuEn vu c =
      .packet (encodePacket c.wire c.encVariant boardId frameSeq brightness bars scopeEn scope vuEn vu) := by
  simp only [encodeAnswer, encoderArraysFit_eq_true.mpr ⟨hb, hs, hv⟩]

/-! ## `exec` -/

theorem State.next_answer_congr (s : State) {a a' : Answer Number} (h : a = a') :
    (.next (s.answer a) : Result) = .next (s.answer a') := h ▸ rfl

/-- An instruction of the machine is the operation of the block at the machine's own record and state. -/
theorem exec_eq (i : Instr) (s : State) : exec i s = .next (s.answer (s.toBlockState.exec s.cfg.fns s.cfg i)) := by
  cases i <;> rfl

theorem exec_saProcess_eq (blk : List Number) (s : State) :
    exec (.saProcess blk) s =
      .next { s with sa := (saEffect s.cfg.fns blk s.cfg s.sa).1, result := (saEffect s.cfg.fns blk s.cfg s.sa).2 } :=
  State.next_answer_congr s (s.toBlockState.saProcess_eq s.cfg.fns s.cfg blk)

theorem exec_lmProcess_eq (left right : List Number) (s : State) :
    exec (.lmProcess left right) s =
      .next { s with
        lm := (lmEffect s.cfg.fns left right s.cfg s.lm).1, result := (lmEffect s.cfg.fns left right s.cfg s.lm).2 } :=
  State.next_answer_congr s (s.toBlockState.lmProcess_eq s.cfg.fns s.cfg left right)

theorem exec_wtProcess_eq (blk : List Number) (s : State) :
    exec (.wtProcess blk) s =
      .next { s with wt := (wtEffect blk s.cfg s.wt).1, result := (wtEffect blk s.cfg s.wt).2 } :=
  State.next_answer_congr s (s.toBlockState.wtProcess_eq s.cfg blk)

theorem exec_fsPublish_eq (bars scope : List Byte) (vu : Vector Byte 4) (s : State) :
    exec (.fsPublish bars scope vu) s =
      .next { s with fs := (publishEffect bars scope vu s.cfg s.fs).1, result := (publishEffect bars scope vu s.cfg s.fs).2 } :=
  State.next_answer_congr s (s.toBlockState.fsPublish_eq s.cfg bars scope vu)

theorem exec_fsTick_eq (brightness : Byte) (s : State) :
    exec (.fsTick brightness) s =
      .next { s with fs := (tickEffect brightness s.fs).1, result := (tickEffect brightness s.fs).2 } := rfl

theorem exec_decFeed_eq (b : Byte) (s : State) :
    exec (.decFeed b) s =
      .next { s with dec := (feedEffect b s.cfg s.dec).1, result := (feedEffect b s.cfg s.dec).2 } := rfl

theorem exec_decValidate_eq (buf : List Byte) (s : State) :
    exec (.decValidate buf) s = .next { s with result := .validated (validatePacket s.cfg.wire s.cfg.decVariant buf) } := rfl

theorem exec_encEncode_eq (boardId frameSeq brightness : Byte) (bars : List Byte) (scopeEn : Bool) (scope : List Byte)
    (vuEn : Bool) (vu : List Byte) (s : State) :
    exec (.encEncode boardId frameSeq brightness bars scopeEn scope vuEn vu) s =
      .next { s with result := encodeAnswer boardId frameSeq brightness bars scopeEn scope vuEn vu s.cfg } :=
  State.next_answer_congr s
    (s.toBlockState.encEncode_eq s.cfg boardId frameSeq brightness bars scopeEn scope vuEn vu)

end Sys2Proof.Machine
end

