-- ==== Sys2Proof/Laws/Numerics.lean ====
section
/-!
SUPPORT. What each shared numeric function can do, said once: the rounding cases, the ranges of the clamps, sums and maxima
of sequences.
-/

namespace Sys2Proof.Machine

variable {K : Type}

theorem clamp_mem [LinearOrder K] {v lo hi : K} (h : lo ≤ hi) : lo ≤ clamp v lo hi ∧ clamp v lo hi ≤ hi :=
  ⟨le_max_left _ _, max_le h (min_le_left _ _)⟩

theorem clampInt_mem {v lo hi : Int} (h : lo ≤ hi) : lo ≤ clampInt v lo hi ∧ clampInt v lo hi ≤ hi :=
  ⟨le_max_left _ _, max_le h (min_le_left _ _)⟩

theorem sumNums_eq_sum [Field K] (l : List K) : sumNums l = l.sum := by
  induction l with
  | nil => rfl
  | cons x l ih => simp [sumNums, ih]

theorem rfftMag_length [Field K] (f : NumFns K) (nb : Nat) (x : List K) : (rfftMag f nb x).length = nb / 2 + 1 := by
  simp [rfftMag]

variable [Field K] [LinearOrder K]

theorem track_of_le {tp m rise rel : K} (h : m ≤ tp) : track tp m rise rel = tp + rel * (m - tp) := by
  rw [track, if_neg (not_lt.mpr h)]

theorem track_of_gt {tp m rise rel : K} (h : tp < m) : track tp m rise rel = tp + rise * (m - tp) := by
  rw [track, if_pos h]

theorem dbFloor_le_trackDb (tp m rise rel dbFloor : K) : dbFloor ≤ trackDb tp m rise rel dbFloor := le_max_right _ _

theorem le_maxNums {l : List K} {x : K} (h : x ∈ l) : x ≤ maxNums l := by
  induction l with
  | nil => cases h
  | cons y l ih =>
    cases l with
    | nil => simp_all [maxNums]
    | cons z l =>
      rcases List.mem_cons.mp h with rfl | h
      · exact le_max_left _ _
      · exact (ih h).trans (le_max_right _ _)

theorem maxNums_mem {l : List K} (h : l ≠ []) : maxNums l ∈ l := by
  induction l with
  | nil => exact absurd rfl h
  | cons x l ih =>
    cases l with
    | nil => simp [maxNums]
    | cons y l =>
      rcases max_choice x (maxNums (y :: l)) with h | h <;> rw [maxNums, h]
      · exact List.mem_cons_self
      · exact List.mem_cons_of_mem _ (ih (by simp))

variable [IsStrictOrderedRing K]

theorem norm01_mem (d : K) (w : Window K) : 0 ≤ norm01 d w ∧ norm01 d w ≤ 1 := clamp_mem zero_le_one

/-- A level at or below the window's floor is at its bottom (R130). -/
theorem norm01_of_le_floor {d : K} {w : Window K} (hd : d ≤ w.floor) (hw : w.floor < w.ceil) : norm01 d w = 0 := by
  have h : (d - w.floor) / (w.ceil - w.floor) ≤ 0 := div_nonpos_of_nonpos_of_nonneg (by linarith) (by linarith)
  rw [norm01, clamp, min_eq_right (by linarith), max_eq_left h]

/-- Everything `rne` can answer (R124). -/
theorem rne_cases [FloorRing K] (v : K) :
    (rne v = ⌊v⌋ ∧ v - ⌊v⌋ < 1 / 2) ∨ (rne v = ⌊v⌋ + 1 ∧ 1 / 2 < v - ⌊v⌋) ∨
    (rne v = ⌊v⌋ ∧ v - ⌊v⌋ = 1 / 2 ∧ ⌊v⌋ % 2 = 0) ∨ (rne v = ⌊v⌋ + 1 ∧ v - ⌊v⌋ = 1 / 2 ∧ ⌊v⌋ % 2 = 1) := by
  unfold rne
  split
  · exact .inl ⟨rfl, ‹_›⟩
  · split
    · exact .inr (.inl ⟨rfl, ‹_›⟩)
    · have h : v - ⌊v⌋ = 1 / 2 := le_antisymm (by linarith) (by linarith)
      split
      · exact .inr (.inr (.inl ⟨rfl, h, ‹_›⟩))
      · exact .inr (.inr (.inr ⟨rfl, h, by omega⟩))

theorem rne_intCast [FloorRing K] (n : Int) : rne (n : K) = n := by simp [rne]

theorem rne_natCast [FloorRing K] (n : Nat) : rne (n : K) = n := by simpa using rne_intCast n

end Sys2Proof.Machine
end

