-- ==== Sys2Proof/Laws/PerInstr.lean ====
section
/-!
SUPPORT. A statement for every instruction as syntax, one lemma per constructor: the word of an instruction is of a format
of `30_encoding.md`.
-/

namespace Sys2Proof.Laws.EncodesInFormat

/-- A command uses one of the eight assigned operation codes (R101); a datagram starts with the sync marker and, where the
instruction is well formed, has one of the three packet lengths (R90 to R93); a wire byte is any byte (R98). -/
def Statement (i : Instr) : Prop :=
  ∀ c : Config, match encode c.wire i with
  | .command w => selectsOperation w.op = true
  | .wire _ => True
  | .datagram buf =>
    hasSync c.wire buf = true ∧
      (i.wellFormed c = true →
        buf.length = c.wire.pktLen .v116 ∨ buf.length = c.wire.pktLen .v112 ∨ buf.length = c.wire.pktLen .v59)

theorem saProcess (blk : List Number) : Statement (.saProcess blk) := fun _ => rfl

theorem lmProcess (left right : List Number) : Statement (.lmProcess left right) := fun _ => rfl

theorem wtProcess (blk : List Number) : Statement (.wtProcess blk) := fun _ => rfl

theorem encEncode (boardId frameSeq brightness : Byte) (bars : List Byte) (scopeEn : Bool) (scope : List Byte)
    (vuEn : Bool) (vu : List Byte) :
    Statement (.encEncode boardId frameSeq brightness bars scopeEn scope vuEn vu) := fun _ => rfl

theorem decFeed (b : Byte) : Statement (.decFeed b) := fun _ => rfl

theorem decValidate (buf : List Byte) : Statement (.decValidate buf) := fun _ => rfl

theorem fsPublish (bars scope : List Byte) (vu : Vector Byte 4) : Statement (.fsPublish bars scope vu) := fun _ => rfl

theorem fsTick (brightness : Byte) : Statement (.fsTick brightness) := fun _ => rfl

theorem pktV116 (boardId frameSeq brightness : Byte) (bars scope vu : List Byte) (checksum : Byte) :
    Statement (.pktV116 boardId frameSeq brightness bars scope vu checksum) := fun _ =>
  ⟨packetOf_hasSync _ _ _, fun h =>
    have ⟨hb, hs, hv⟩ := encoderArraysFit_eq_true.mp h
    .inl (packetOf_bodyOf_length .v116 hb (fun _ => hs) (fun _ => hv) _ _ _ _)⟩

theorem pktV112 (boardId frameSeq brightness : Byte) (bars scope : List Byte) (checksum : Byte) :
    Statement (.pktV112 boardId frameSeq brightness bars scope checksum) := fun c =>
  ⟨packetOf_hasSync _ _ _, fun h => by
    simp only [Instr.wellFormed, Bool.and_eq_true, decide_eq_true_eq] at h
    exact .inr (.inl (packetOf_bodyOf_length .v112 h.1.1 (fun _ => h.1.2) nofun _ _ _ _))⟩

theorem pktV59 (boardId frameSeq brightness : Byte) (bars : List Byte) (checksum : Byte) :
    Statement (.pktV59 boardId frameSeq brightness bars checksum) := fun c =>
  ⟨packetOf_hasSync _ _ _, fun h => by
    simp only [Instr.wellFormed, Bool.and_eq_true, decide_eq_true_eq] at h
    exact .inr (.inr (packetOf_bodyOf_length .v59 h.1.1 nofun nofun _ _ _ _))⟩

theorem decS0Sync0 : Statement .decS0Sync0 := fun _ => trivial

theorem decS0Other (b : Byte) : Statement (.decS0Other b) := fun _ => trivial

theorem decS1Sync1 : Statement .decS1Sync1 := fun _ => trivial

theorem decS1Sync0 : Statement .decS1Sync0 := fun _ => trivial

theorem decS1Other (b : Byte) : Statement (.decS1Other b) := fun _ => trivial

theorem decS2Body (b : Byte) : Statement (.decS2Body b) := fun _ => trivial

theorem decS2Check (b : Byte) : Statement (.decS2Check b) := fun _ => trivial

end Sys2Proof.Laws.EncodesInFormat
end

