-- ==== Sys2Proof/Tests/Slice0.lean ====
section
/-!
SUPPORT. The session's own tests: the well-formedness smoke test, the decoding of words written out from `30_encoding.md`, single steps
and single helper calls with the numbers of `95_test_vectors.md` (V<n>, X<n>), and for each statement with hypotheses a state
and operands that meet them.
-/

namespace Sys2Proof.Tests

open Sys2Proof Sys2Proof.Machine

-- One theorem after another: the kernel evaluations below are many, and side by side they need many stacks.
set_option Elab.async false

/-! ## Helpers -/

/-- The small configuration of V5, V11 and X1: 16 samples, four bands, five trace points, 59-byte packets, a flat window. -/
def cfg16 : Config :=
  { Config.reference with
    nb := 16, nBands := 4, scopeCols := 5, edges := [1, 2, 3, 5, 8], win := List.replicate 16 1,
    encVariant := .v59, decVariant := .v59 }

/-- The same record over the real numbers, with an irrational window. -/
noncomputable def exact16 : ConfigOf ℝ :=
  { ConfigOf.exactReference with
    nb := 16, nBands := 4, scopeCols := 5, edges := [1, 2, 3, 5, 8], win := List.replicate 16 Real.pi,
    encVariant := .v59, decVariant := .v59 }

/-- A block in use, every element at or near the end of its range. -/
def busy : State :=
  { State.resetWith cfg16 with
    sa := { tp := -24, cur := [8, 4, 0, 11], fault := false }
    lm := { tp := -20, rms := ⟨1 / 5, 53⟩, peak := ⟨-28 / 125, 53⟩, fault := false }
    wt := { tp := 1 / 2, fault := false } }

/-- `busy` with its decoder in state `st` at cursor `cur`. -/
def decoderAt (st : DecSt) (cur : Nat) : State := { busy with dec := { busy.dec with st := st, cur := cur } }

/-- `busy` with the inputs `ins`. -/
def pending (ins : List Input) : State := { busy with inbox := ins }

/-- `busy` with all three fault flags set. -/
def faulty : State := ((busy.setFault .sa).setFault .lm).setFault .wt

/-- The packet of X1. -/
def packetX1 : List Byte := [0xAA#8, 0x55#8, 0x00#8, 0x07#8, 0x80#8] ++ List.replicate 53 0x00#8 ++ [0x87#8]

/-- The decoder over the machine's numbers, with the wire constants at their defaults (R7). -/
abbrev read (p : DecPos) (w : InstrWord) : Except DecodeError Instr := decode {} p w

def after (r : Result) : Option State :=
  match r with
  | .next s => some s
  | .fault _ => none
  | .refused _ => none

def answer (r : Result) : Option Response := (after r).map State.result

/-! ## Well-formedness: each check refuses an ill-formed term -/

theorem test_wellFormed_publish_bars :
    Instr.wellFormed cfg16 (.fsPublish [1, 2, 3] [1, 2, 3, 4, 5] (Vector.replicate 4 0)) = false := by decide

theorem test_wellFormed_publish_scope :
    Instr.wellFormed cfg16 (.fsPublish [1, 2, 3, 4] [1, 2, 3, 4] (Vector.replicate 4 0)) = false := by decide

theorem test_wellFormed_s0_other : Instr.wellFormed cfg16 (.decS0Other 0xAA#8) = false := by decide

theorem test_wellFormed_s1_other_sync0 : Instr.wellFormed cfg16 (.decS1Other 0xAA#8) = false := by decide

theorem test_wellFormed_s1_other_sync1 : Instr.wellFormed cfg16 (.decS1Other 0x55#8) = false := by decide

theorem test_wellFormed_encEncode :
    [Instr.wellFormed cfg16 (.encEncode 0 0 0 (List.replicate 52 0) true (List.replicate 53 0) true (List.replicate 4 0)),
      Instr.wellFormed cfg16 (.encEncode 0 0 0 (List.replicate 53 0) true (List.replicate 54 0) true (List.replicate 4 0)),
      Instr.wellFormed cfg16 (.encEncode 0 0 0 (List.replicate 53 0) true (List.replicate 53 0) true [])] =
      [false, false, false] := by decide

theorem test_wellFormed_packet_arrays :
    [Instr.wellFormed cfg16 (.pktV116 0 0 0 (List.replicate 53 0) (List.replicate 53 0) (List.replicate 5 0) 0),
      Instr.wellFormed cfg16 (.pktV112 0 0 0 (List.replicate 53 0) (List.replicate 52 0) 0),
      Instr.wellFormed cfg16 (.pktV59 0 0 0 (List.replicate 54 0) 0)] = [false, false, false] := by decide

/-- Formats of one length: with no VU bytes V112 is V116's length, with no scope bytes either V59 is V112's. -/
theorem test_wellFormed_packet_lengths :
    [Instr.wellFormed { cfg16 with wire := { vuPerPkt := 0 } } (.pktV112 0 0 0 (List.replicate 53 0) (List.replicate 53 0) 0),
      Instr.wellFormed { cfg16 with wire := { scopePerPkt := 0 } } (.pktV59 0 0 0 (List.replicate 53 0) 0)] = [false, false] := by
  decide

theorem test_wellFormed_s1_sync0 :
    Instr.wellFormed { cfg16 with wire := { sync0 := 0x55#8 } } .decS1Sync0 = false := by decide

/-! ## Decoding: words written out from R91 to R93, R98 and R101 -/

theorem test_decode_saProcess : read .s0 (.command ⟨0x1#4, [.nums [1 / 2, -1]]⟩) = .ok (.saProcess [1 / 2, -1]) := by
  decide +kernel

theorem test_decode_lmProcess : read .s0 (.command ⟨0x2#4, [.nums [1], .nums [-1]]⟩) = .ok (.lmProcess [1] [-1]) := by
  decide +kernel

theorem test_decode_wtProcess : read .s0 (.command ⟨0x3#4, [.nums [1 / 4]]⟩) = .ok (.wtProcess [1 / 4]) := by
  decide +kernel

theorem test_decode_encEncode :
    read .s0 (.command ⟨0x4#4, [.byte 1, .byte 2, .byte 3, .bytes (List.replicate 53 4), .bit true,
      .bytes (List.replicate 53 5), .bit false, .bytes [6, 7, 8, 9]]⟩) =
      .ok (.encEncode 1 2 3 (List.replicate 53 4) true (List.replicate 53 5) false [6, 7, 8, 9]) := by
  decide +kernel

theorem test_decode_decFeed : read .s0 (.command ⟨0x5#4, [.byte 0x13#8]⟩) = .ok (.decFeed 0x13#8) := by decide +kernel

theorem test_decode_decValidate : read .s0 (.command ⟨0x6#4, [.bytes [1, 2]]⟩) = .ok (.decValidate [1, 2]) := by
  decide +kernel

theorem test_decode_fsPublish :
    read .s0 (.command ⟨0x7#4, [.bytes [1], .bytes [2], .bytes [3, 4, 5, 6]]⟩) =
      .ok (.fsPublish [1] [2] #v[3, 4, 5, 6]) := by
  decide +kernel

theorem test_decode_fsTick : read .s0 (.command ⟨0x8#4, [.byte 0x80#8]⟩) = .ok (.fsTick 0x80#8) := by decide +kernel

theorem test_decode_no_operation : read .s0 (.command ⟨0x9#4, [.byte 0]⟩) = .error (.noOperation 0x9#4) := by
  decide +kernel

theorem test_decode_wrong_operands : read .s0 (.command ⟨0x8#4, []⟩) = .error (.operandShape 0x8#4) := by decide +kernel

/-- R91: bars at offsets 5 to 57, scope at 58 to 110, VU at 111 to 114, checksum at 115. -/
theorem test_decode_pktV116 :
    read .s0 (.datagram ([0xAA, 0x55, 1, 2, 3] ++ List.replicate 53 4 ++ List.replicate 53 5 ++ [6, 7, 8, 9] ++ [10])) =
      .ok (.pktV116 1 2 3 (List.replicate 53 4) (List.replicate 53 5) [6, 7, 8, 9] 10) := by
  decide +kernel

theorem test_decode_pktV112 :
    read .s0 (.datagram ([0xAA, 0x55, 1, 2, 3] ++ List.replicate 53 4 ++ List.replicate 53 5 ++ [10])) =
      .ok (.pktV112 1 2 3 (List.replicate 53 4) (List.replicate 53 5) 10) := by
  decide +kernel

theorem test_decode_pktV59 : read .s0 (.datagram packetX1) = .ok (.pktV59 0 7 128 (List.replicate 53 0) 0x87#8) := by
  decide +kernel

theorem test_decode_decS0Sync0 : read .s0 (.wire 0xAA#8) = .ok .decS0Sync0 := by decide +kernel

theorem test_decode_decS0Other : read .s0 (.wire 0x55#8) = .ok (.decS0Other 0x55#8) := by decide +kernel

theorem test_decode_decS1Sync1 : read .s1 (.wire 0x55#8) = .ok .decS1Sync1 := by decide +kernel

theorem test_decode_decS1Sync0 : read .s1 (.wire 0xAA#8) = .ok .decS1Sync0 := by decide +kernel

theorem test_decode_decS1Other : read .s1 (.wire 0x13#8) = .ok (.decS1Other 0x13#8) := by decide +kernel

theorem test_decode_decS2Body : read .s2Body (.wire 0xAA#8) = .ok (.decS2Body 0xAA#8) := by decide +kernel

theorem test_decode_decS2Check : read .s2Check (.wire 0x55#8) = .ok (.decS2Check 0x55#8) := by decide +kernel

/-- The opcode table's word 0xAA55 in 16 bits. -/
theorem test_decodeTableWord_packet :
    decodeTableWord 16 0xAA55 = some (.pktV116 0 0 0 (List.replicate 53 0) (List.replicate 53 0) (List.replicate 4 0) 0) := by
  decide +kernel

/-- A table word placed by `withFetchWord` is what the very next step runs. -/
theorem test_withFetchWord_runs : answer (step (State.reset.withFetchWord 8 8)) = answer (exec (.fsTick 0) State.reset) := by
  decide +kernel

/-- Other wire constants than the defaults (R7): bytes and a count of the record's own. -/
theorem test_decode_other_wire :
    let w : WireFormat := { sync0 := 0x7E#8, sync1 := 0x81#8, barsPerPkt := 2, scopePerPkt := 1, vuPerPkt := 1, barClamp := 3 }
    decode w .s0 (.wire 0x7E#8) = .ok (.decS0Sync0 : Instr) ∧
    decode w .s0 (.datagram [0x7E#8, 0x81#8, 1, 2, 3, 9, 4, 5]) = .ok (.pktV59 1 2 3 [9, 4] 5 : Instr) ∧
    encodePacket w .v59 1 2 3 [9, 3] false [0] false [0] = [0x7E#8, 0x81#8, 1, 2, 3, 3, 3, 0] := by
  decide +kernel

/-! ## Shared numeric functions -/

/-- V1. -/
theorem test_rne : ([49 / 100, 1 / 2, 51 / 100, 3 / 2, 5 / 2, 21 / 2, -28 / 125, -1 / 2] : List Number).map rne = [0, 0, 1, 2, 2, 10, 0, 0] := by
  decide +kernel

/-- V1. -/
theorem test_trunc : ([51 / 100, 3 / 2, 5 / 2, -28 / 125, -1 / 2, 9999999 / 1000000] : List Number).map trunc = [0, 1, 2, 0, 0, 9] := by
  decide +kernel

/-- V3. -/
theorem test_track : track (-60) (-20) (9 / 10) (5 / 1000) = (-24 : Number) ∧
    track (-501 / 25) (-200) (9 / 10) (5 / 1000) = (-209398 / 10000 : Number) ∧
    trackDb (-60) (-200) (9 / 10) (5 / 1000) (-60) = (-60 : Number) := by
  decide +kernel

/-- V3. -/
theorem test_window : displayWindow (-24) 8 55 (-60) = (⟨-16, -60⟩ : Window Number) ∧
    displayWindow (-60) 3 54 (-60) = (⟨-57, -60⟩ : Window Number) := by
  decide +kernel

/-- V4. -/
theorem test_norm01 : ([-20, -75, -10, -16] : List Number).map (fun d => norm01 d ⟨-16, -60⟩) = [10 / 11, 0, 1, 1] := by decide +kernel

/-- V4. -/
theorem test_smooth : smooth 0 10 (8 / 10) (3 / 10) = (8 : Number) ∧ smooth 8 8 (8 / 10) (3 / 10) = (8 : Number) ∧
    smooth 10 0 (8 / 10) (3 / 10) = (7 : Number) := by
  decide +kernel

/-- V15 (b): equal edges give forced one-bin spans. -/
theorem test_span : (List.range 4).map (span [1, 1, 2, 2, 4]) = [(1, 2), (1, 2), (2, 3), (2, 4)] := by decide

/-- V15 (c): the generator at exact multiples of the bin width. -/
theorem test_edgesGenerated :
    edgesGenerated { cfg16 with nb := 64, fsHz := 6400, fminHz := 100, fmaxHz := 3200, nBands := 10 } =
      [1, 1, 2, 2, 4, 5, 8, 11, 16, 22, 32] := by
  decide +kernel

/-- R139 by hand on four points, with exact quarter turns and the square of the magnitude: the block 1, 0, -1, 0 has bins
0, 2, 0. -/
theorem test_rfftMag :
    let f : NumFns Number :=
      { log10 := id, sqrt := id
        cosTurn := fun x => if x = 1 / 2 ∨ x = 3 / 2 then -1 else if x.den = 1 then 1 else 0
        sinTurn := fun x => if x = 1 / 4 then 1 else if x = 3 / 4 then -1 else 0 }
    rfftMag f 4 [1, 0, -1, 0] = [0, 4, 0] := by
  decide +kernel

/-! ## Single steps -/

/-- V7, first call: from reset, band levels -20, -40, -75, -200. -/
theorem test_saProcess_levels :
    saUpdate cfg16 [-20, -40, -75, -200] (State.resetWith cfg16).sa = ⟨-24, [8, 4, 0, 0], false⟩ := by
  decide +kernel

/-- V23 (a), (b): a block of 15 samples raises, and the flag refuses the next block. -/
theorem test_saProcess_raises :
    answer (exec (.saProcess (List.replicate 15 0)) busy) = some (.raised ⟨1, .sa⟩) ∧
    answer (exec (.saProcess (List.replicate 16 0)) faulty) = some (.refused (.unitFaulted .sa)) := by
  decide +kernel

/-- V9 (a): the peak undershoots zero in the state and reads 0. -/
theorem test_lmProcess_silence :
    lmLevels cfg16 (lmUpdate cfg16 (-200) (-200) { tp := -60, rms := ⟨1 / 5, 0⟩, peak := ⟨1 / 5, 0⟩, fault := false }) = .levels 0 0 0 0 ∧
    lmUpdate cfg16 (-200) (-200) { tp := -60, rms := ⟨1 / 5, 0⟩, peak := ⟨1 / 5, 0⟩, fault := false } =
      { tp := -60, rms := ⟨3 / 20, 0⟩, peak := ⟨-28 / 125, 0⟩, fault := false } := by
  decide +kernel

/-- V10: full-scale equal channels, first call, then the second. -/
theorem test_lmProcess_full_scale :
    lmLevels cfg16 (lmUpdate cfg16 0 0 (State.resetWith cfg16).lm) = .levels 37 50 37 50 ∧
    lmLevels cfg16 (lmUpdate cfg16 0 0 (lmUpdate cfg16 0 0 (State.resetWith cfg16).lm)) = .levels 47 51 47 51 := by
  decide +kernel

/-- V11: trigger 2, the first call from reset. -/
theorem test_wtProcess_first :
    answer (exec (.wtProcess [-1, -1 / 2, 1 / 2, 1, 1 / 2, 0, -1 / 2, -1, -1 / 2, 0, 1 / 2, 1, 1 / 2, 0, -1 / 2, -1])
      (State.resetWith cfg16)) = some (.trace [8, 8, 3, 0, 5]) := by
  decide +kernel

/-- V12 (e): a crossing outside the first quarter is ignored; V14: exact truncation boundaries. -/
theorem test_wtProcess_corners :
    answer (exec (.wtProcess (List.replicate 5 (-1) ++ List.replicate 11 1)) (State.resetWith cfg16)) = some (.trace [0, 0, 0, 10, 10]) ∧
    answer (exec (.wtProcess (List.replicate 8 [-4 / 10000, 4 / 10000]).flatten) (State.resetWith cfg16)) =
      some (.trace [7, 6, 5, 4, 3]) := by
  decide +kernel

/-- V16: clamped bars, checksum over the clamped values. -/
theorem test_encEncode_v59 :
    encodePacket {} .v59 1 0x2A#8 200 ((List.range 53).map fun i => BitVec.ofNat 8 (5 * i % 14)) false (List.replicate 53 255) false
      (List.replicate 4 255) =
      [0xAA, 0x55, 0x01, 0x2A, 0xC8] ++ (List.replicate 3 [0x00, 0x05, 0x0A, 0x01, 0x06, 0x0B, 0x02, 0x07, 0x0B, 0x03, 0x08, 0x0B, 0x04, 0x09]).flatten ++
        [0x00, 0x05, 0x0A, 0x01, 0x06, 0x0B, 0x02, 0x07, 0x0B, 0x03, 0x08] ++ [0xE5] := by
  decide +kernel

/-- An array that is not of the count per packet is rejected (log 7). -/
theorem test_encEncode_wrong_length :
    answer (exec (.encEncode 0 0 0 (List.replicate 52 0) true (List.replicate 53 0) true (List.replicate 4 0)) busy) =
      some (.refused .operandShape) := by
  decide +kernel

/-- R256: board 1 of a frame of 106 bands; no board 2, and no board of a frame whose trace is not the scope section. -/
theorem test_encodeFrame :
    encodeFrame {} 1 ⟨9, 8, List.replicate 53 1 ++ List.replicate 53 2, List.replicate 53 3, #v[4, 5, 6, 7]⟩ =
      some (.encEncode 1 9 8 (List.replicate 53 2) true (List.replicate 53 3) true [4, 5, 6, 7] : Instr) ∧
    encodeFrame (K := Number) {} 2 ⟨9, 8, List.replicate 106 1, List.replicate 53 3, #v[4, 5, 6, 7]⟩ = none ∧
    encodeFrame (K := Number) {} 0 ⟨9, 8, List.replicate 53 1, List.replicate 40 3, #v[4, 5, 6, 7]⟩ = none := by
  decide +kernel

/-- V18 (b): every operand at its largest value. -/
theorem test_encEncode_v116 :
    encodePacket {} .v116 0 0 0 (List.replicate 53 255) true (List.replicate 53 255) true (List.replicate 4 255) =
      [0xAA, 0x55, 0, 0, 0] ++ List.replicate 53 0x0B ++ List.replicate 53 0x0A ++ List.replicate 4 0x35 ++ [0x01] := by
  decide +kernel

/-- V20: S1 with the byte 13, and the last byte of a body. -/
theorem test_decFeed :
    ((after (exec (.decFeed 0x13#8) (decoderAt .s1 7))).map fun t => t.dec) = some { busy.dec with st := .s0, cur := 7 } ∧
    ((after (exec (.decFeed 0) (decoderAt .s2 55))).map fun t => (t.dec.st, t.dec.cur)) = some (.s2, 56) := by
  decide +kernel

/-- V19: the packet of X1, and the same with checksum 86. -/
theorem test_decValidate :
    answer (exec (.decValidate packetX1) busy) = some (.validated (some ⟨0, 7, 128, List.replicate 53 0, none, none⟩)) ∧
    answer (exec (.decValidate (packetX1.set 58 0x86#8)) busy) = some (.validated none) := by
  decide +kernel

/-- V19: out-of-range bars with a right checksum are delivered. -/
theorem test_pktV59 :
    answer (exec (.pktV59 9 8 7 (List.replicate 53 0xC8#8) 0xCE#8) busy) =
      some (.validated (some ⟨9, 8, 7, List.replicate 53 200, none, none⟩)) := by
  decide +kernel

/-- V19: packets of the longer formats have the wrong size for a 59-byte receiver. -/
theorem test_pktV112_pktV116_wrong_size :
    answer (exec (.pktV112 0 0 0 (List.replicate 53 0) (List.replicate 53 0) 0) busy) = some (.validated none) ∧
    answer (exec (.pktV116 0 0 0 (List.replicate 53 0) (List.replicate 53 0) (List.replicate 4 0) 0) busy) =
      some (.validated none) := by
  decide +kernel

/-- V20: the rows of S0 and S1. -/
theorem test_sync_rows :
    [exec .decS0Sync0 (decoderAt .s0 3), exec (.decS0Other 0x55#8) (decoderAt .s0 3), exec .decS1Sync1 (decoderAt .s1 3),
      exec .decS1Sync0 (decoderAt .s1 3), exec (.decS1Other 0x13#8) (decoderAt .s1 3)].map
      (fun r => (after r).map fun t => (t.dec.st, t.dec.cur)) =
      [some (.s1, 3), some (.s0, 3), some (.s2, 0), some (.s1, 3), some (.s0, 3)] := by
  decide +kernel

/-- V20: no byte is special in a body. -/
theorem test_decS2Body :
    ((after (exec (.decS2Body 0xAA#8) (decoderAt .s2 0))).map fun t => t.dec) = some ⟨.s2, 1, 0xAA#8 :: List.replicate 56 0⟩ := by
  decide +kernel

/-- V20: checksum match and mismatch on a body of zeros. -/
theorem test_decS2Check :
    answer (exec (.decS2Check 0) (decoderAt .s2 56)) = some (.frames [⟨0, 0, 0, List.replicate 53 0, none, none⟩]) ∧
    answer (exec (.decS2Check 1) (decoderAt .s2 56)) = some (.frames []) ∧
    ((after (exec (.decS2Check 1) (decoderAt .s2 56))).map fun t => (t.dec.st, t.dec.cur)) = some (.s0, 57) := by
  decide +kernel

/-- R251: the arrays are replaced, the sequence number is not. -/
theorem test_fsPublish :
    ((after (exec (.fsPublish [4, 8, 9, 3] [10, 4, 0, 9, 5] #v[37, 50, 37, 50]) { busy with fs := { busy.fs with seq := 9 } })).map fun t => t.fs) =
      some ⟨[4, 8, 9, 3], [10, 4, 0, 9, 5], #v[37, 50, 37, 50], 9⟩ := by
  decide +kernel

/-- V22: `frame_seq` 255 wraps to 0. -/
theorem test_fsTick :
    answer (exec (.fsTick 9) { busy with fs := { busy.fs with seq := 255 } }) =
      some (.frame ⟨255, 9, List.replicate 4 0, List.replicate 5 0, Vector.replicate 4 0⟩) ∧
    ((after (exec (.fsTick 9) { busy with fs := { busy.fs with seq := 255 } })).map fun t => t.fs.seq) = some 0 := by
  decide +kernel

/-- V23 (f): the reset event clears the flags. -/
theorem test_reset_event :
    (after (step { faulty with inbox := [.reset] })).map (fun t => [t.sa.fault, t.lm.fault, t.wt.fault]) = some [false, false, false] := by
  decide +kernel

/-- The exact machine takes irrational samples (R9): one sample raises, `NB` of them under an irrational window give bars. -/
theorem test_exact_irrational_samples :
    (exactStep exact16 (.word (.command ⟨1, [.nums [Real.sqrt 2]]⟩)) (BlockState.resetWith exact16)).2 = .raised ⟨1, .sa⟩ ∧
    ∃ bars, (exactStep exact16 (.word (.command ⟨1, [.nums (List.replicate 16 (Real.sqrt 2))]⟩)) (BlockState.resetWith exact16)).2 =
      .bars bars :=
  ⟨rfl, _, rfl⟩

/-! ## Witnesses: a state and operands that meet the hypotheses of each statement that has any -/

theorem cfg16_valid : cfg16.Valid := by decide +kernel

theorem exact16_valid : exact16.Valid := by
  rw [ConfigOf.valid_iff]
  refine ⟨?_, ?_, ?_, ?_⟩ <;>
    norm_num [exact16, ConfigOf.exactReference, ConfigOf.reference, ConfigOf.SizesValid, ConfigOf.TablesValid, ConfigOf.RatesValid,
      ConfigOf.FloorsValid, ConfigOf.Rate, ConfigOf.nondecreasing]

theorem busy_inv : busy.Inv := by
  refine ⟨by decide +kernel, ⟨by decide +kernel, by decide +kernel, by decide +kernel⟩, ⟨by decide +kernel, ?_⟩, ?_, ?_, ?_⟩
  · unfold RmsInv PeakInv; decide +kernel
  · unfold WtState.Inv; decide +kernel
  · unfold DecState.Inv; decide +kernel
  · unfold FsState.Inv; decide +kernel

theorem witness_DecodeOfEncode :
    Instr.wellFormed cfg16 (.decS1Other 0x13#8) = true ∧ Instr.atPos (.decS1Other 0x13#8 : Instr) .s1 = true ∧
    Instr.wellFormed cfg16 (.fsPublish [1, 2, 3, 4] [1, 2, 3, 4, 5] (Vector.replicate 4 0)) = true := by decide

theorem witness_EncodeOfDecode :
    read .s2Check (.wire 0x55#8) = .ok (.decS2Check 0x55#8) ∧ read .s0 (.datagram [1]) = .ok (.decValidate [1]) := by
  decide +kernel

theorem witness_StepRunsTheDecodedInstruction :
    (pending [.word (.wire 0xAA#8), .reset]).cfg.Valid ∧ (pending [.word (.wire 0xAA#8), .reset]).inbox = .word (.wire 0xAA#8) :: [.reset] ∧
    decode (pending [.word (.wire 0xAA#8), .reset]).cfg.wire (pending [.word (.wire 0xAA#8), .reset]).decPos (.wire 0xAA#8) = .ok (.decS0Sync0 : Instr) := by
  decide +kernel

theorem witness_UnselectedWordChangesNothing :
    (pending [.word (.command ⟨0, []⟩)]).cfg.Valid ∧ (pending [.word (.command ⟨0, []⟩)]).inbox = .word (.command ⟨0, []⟩) :: [] ∧
    decode (pending []).cfg.wire (pending [.word (.command ⟨0, []⟩)]).decPos (.command ⟨0, []⟩ : InstrWord) = .error (.noOperation 0) := by
  decide +kernel

theorem witness_EveryStepCompletes : busy.cfg.Valid := cfg16_valid

theorem witness_InvalidConfigurationRefused : ¬ (State.resetWith { cfg16 with nb := 7 }).cfg.Valid := by decide +kernel

theorem witness_ResetEventRestoresResetValues :
    State.cfg { faulty with inbox := [.reset] } = cfg16 ∧ cfg16.Valid ∧ State.inbox { faulty with inbox := [.reset] } = .reset :: [] :=
  ⟨rfl, cfg16_valid, rfl⟩

/-- For `ResetMeetsTheInvariant`: records that are valid, over the rationals and over the reals. -/
theorem witness_ResetMeetsTheInvariant : cfg16.Valid ∧ exact16.Valid := ⟨cfg16_valid, exact16_valid⟩

/-- For `StepKeepsTheInvariant`: states in the invariant, of the host's machine, of the block over the rationals and over the reals. -/
theorem witness_StepKeepsTheInvariant :
    (busy.Inv ∧ step busy = .next busy) ∧ (cfg16.Valid ∧ busy.toBlockState.Inv cfg16) ∧
    (exact16.Valid ∧ (BlockState.resetWith exact16).Inv exact16) := by
  refine ⟨⟨busy_inv, ?_⟩, ⟨cfg16_valid, busy_inv.2⟩, exact16_valid, ?_⟩
  · rw [step_of_valid cfg16_valid]
    rfl
  · refine ⟨⟨le_rfl, by simp [BlockState.resetWith], by simp [BlockState.resetWith]⟩, ⟨le_rfl, ?_, ?_, ?_, ?_⟩, le_rfl, ?_, ?_⟩
    · exact ⟨le_rfl, Nat.cast_nonneg _⟩
    · exact ⟨le_rfl, Nat.cast_nonneg _⟩
    · exact ⟨.inr rfl, Nat.cast_nonneg _⟩
    · exact ⟨.inr rfl, Nat.cast_nonneg _⟩
    · simp [DecState.Inv, BlockState.resetWith]
    · simp [FsState.Inv, BlockState.resetWith]

theorem witness_StepKeepsTheConfiguration :
    (∃ t, step (pending [.word (.wire 0)]) = .next t) ∧ (pending [.reset, .word (.wire 0)]).cfg.Valid ∧
    (pending [.reset, .word (.wire 0)]).inbox = .reset :: [.word (.wire 0)] := by
  refine ⟨?_, cfg16_valid, rfl⟩
  rw [step_of_valid cfg16_valid]
  exact ⟨_, rfl⟩

theorem witness_BlockLengthSetsOnlyTheFlag :
    busy.sa.fault = false ∧ busy.lm.fault = false ∧ busy.wt.fault = false ∧ (List.replicate 15 (0 : Number)).length ≠ busy.cfg.nb ∧
    (List.replicate 17 (0 : Number)).length ≠ busy.cfg.nb ∧ ([] : List Number).length ≠ busy.cfg.nb := by
  decide

/-- For the last clause of `BlockLengthSetsOnlyTheFlag`: a good state whose next step raises, and one whose next step does not. -/
theorem witness_SafeStep :
    busy.cfg.Valid ∧ (pending [.word (.command ⟨1, [.nums []]⟩)]).Good ∧ (pending [.word (.command ⟨1, [.nums []]⟩)]).inbox ≠ [] ∧
    answer (step (pending [.word (.command ⟨1, [.nums []]⟩)])) = some (.raised ⟨1, .sa⟩) ∧
    (pending [.reset]).Good ∧ (pending [.reset]).inbox ≠ [] ∧ answer (step (pending [.reset])) = some .idle := by
  refine ⟨cfg16_valid, fun u => by cases u <;> rfl, by decide, by decide +kernel, fun u => by cases u <;> rfl, by decide, by decide +kernel⟩

theorem witness_FaultedUnitRefuses : faulty.sa.fault = true ∧ faulty.lm.fault = true ∧ faulty.wt.fault = true := by decide

theorem witness_FaultFlagClearedOnlyByReset :
    (∃ t, step { faulty with inbox := [.reset] } = .next t) ∧ (∃ t, step faulty = .next t) ∧
    ∀ u : Analyzer, faulty.faulted u = true := by
  refine ⟨?_, ?_, fun u => by cases u <;> rfl⟩
  · rw [step_of_valid cfg16_valid]
    exact ⟨_, rfl⟩
  · rw [step_of_valid cfg16_valid]
    exact ⟨_, rfl⟩

theorem witness_FaultIsInvisibleToOtherAgents : agentOf (.fsTick 9 : Instr) ≠ .prod ∧ ∃ t, exec (.fsTick 9) busy = .next t :=
  ⟨by decide, _, rfl⟩

theorem witness_OperationsWriteOnlyTheirUnit :
    (∃ t, exec (.decValidate [1]) busy = .next t) ∧ (∀ b, encode cfg16.wire (.decValidate [1] : Instr) ≠ .wire b) ∧
    (∀ b, (.decValidate [1] : Instr) ≠ .decFeed b) ∧
    (∀ b, (.decValidate [1] : Instr) ≠ .fsTick b) ∧ (∀ bars scope vu, (.decValidate [1] : Instr) ≠ .fsPublish bars scope vu) := by
  refine ⟨⟨_, rfl⟩, ?_, ?_, ?_, ?_⟩ <;> simp [encode]

theorem witness_DifferentUnitsCommute :
    unitOf (.fsTick 9 : Instr) ≠ unitOf (.decFeed 1 : Instr) ∧
    ∃ si sij sj sji, exec (.fsTick 9) busy = .next si ∧ exec (.decFeed 1) si = .next sij ∧ exec (.decFeed 1) busy = .next sj ∧
      exec (.fsTick 9) sj = .next sji :=
  ⟨by decide, _, _, _, _, rfl, rfl, rfl, rfl⟩

theorem witness_BandLevelsAreTheSpectrumMeans :
    cfg16.Valid ∧ (List.replicate 16 (1 : Number)).length = cfg16.nb ∧ 0 < cfg16.nBands ∧ 3 < cfg16.nBands :=
  ⟨cfg16_valid, by decide, by decide, by decide⟩

/-- Shared by the statements about `SA.PROCESS` on a block of the required length. -/
theorem witness_SaProcess :
    busy.cfg.Valid ∧ busy.Inv ∧ SaDefaults busy.cfg ∧ busy.sa.fault = false ∧ (List.replicate 16 (1 : Number)).length = busy.cfg.nb ∧
    busy.sa.cur.length = busy.cfg.nBands :=
  ⟨cfg16_valid, busy_inv, by unfold SaDefaults; decide +kernel, rfl, rfl, rfl⟩

theorem witness_SaSilenceClearsTheBars :
    State.Inv (pending (List.replicate 9 (Input.word (encode cfg16.wire (Instr.saProcess (List.replicate 16 0)))) ++ [Input.reset])) ∧
    SaDefaults cfg16 ∧ (pending []).sa.fault = false ∧
    (pending (List.replicate 9 (Input.word (encode cfg16.wire (Instr.saProcess (List.replicate 16 0)))) ++ [Input.reset])).inbox =
      List.replicate 9 (Input.word (encode cfg16.wire (Instr.saProcess (List.replicate cfg16.nb 0)))) ++ [Input.reset] :=
  ⟨busy_inv, by unfold SaDefaults; decide +kernel, rfl, rfl⟩

/-- Shared by the statements about `LM.PROCESS` on blocks of the required length; one peak column is below 0, one above. -/
theorem witness_LmProcess :
    busy.Inv ∧ LmDefaults busy.cfg ∧ busy.lm.fault = false ∧ (List.replicate 16 (1 : Number)).length = busy.cfg.nb ∧
    busy.lm.peak.left < 0 ∧ 0 < busy.lm.peak.right :=
  ⟨busy_inv, by unfold LmDefaults; decide +kernel, rfl, rfl, by decide +kernel, by decide +kernel⟩

/-- Shared by the statements about `WT.PROCESS` and its trace; the block has a crossing at index 2 and none at 1. -/
theorem witness_WtProcess :
    busy.cfg.Valid ∧ busy.Inv ∧ busy.wt.fault = false ∧ ([0, 0] ++ List.replicate 14 (1 : Number)).length = busy.cfg.nb ∧
    Crossing ([0, 0] ++ List.replicate 14 (1 : Number)) 2 ∧ ¬ Crossing ([0, 0] ++ List.replicate 14 (1 : Number)) 1 :=
  ⟨cfg16_valid, busy_inv, rfl, rfl, by unfold Crossing; decide +kernel, by unfold Crossing; decide +kernel⟩

/-- For both clauses of `EncodeReturnsThePacket`, and for `PacketRowsDeliverTheirFields`. -/
theorem witness_PacketArrays :
    PacketArrays busy.cfg.wire (List.replicate 53 255) (List.replicate 53 255) (List.replicate 4 255) ∧
    ¬ PacketArrays busy.cfg.wire (List.replicate 52 255) (List.replicate 53 255) (List.replicate 4 255) ∧
    0 < busy.cfg.wire.scopePerPkt ∧ 0 < busy.cfg.wire.vuPerPkt := by
  unfold PacketArrays
  decide

/-- For `EncodeGivesTheSourceExample`. -/
theorem witness_EncodeGivesTheSourceExample : busy.cfg.encVariant = .v59 ∧ WireDefaults busy.cfg.wire := by
  unfold WireDefaults
  decide

/-- For both clauses of `FrameIsEncodedPerBoard`: board 1 of a 106-band frame, and no board 2 of it. -/
theorem witness_FrameIsEncodedPerBoard :
    State.reset.cfg.wire.barsPerPkt ∣ (List.replicate 106 (0 : Byte)).length ∧
    State.reset.cfg.wire.barsPerPkt * (1 + 1) ≤ (List.replicate 106 (0 : Byte)).length ∧
    ¬ State.reset.cfg.wire.barsPerPkt * (2 + 1) ≤ (List.replicate 106 (0 : Byte)).length ∧
    (List.replicate 53 (0 : Byte)).length = State.reset.cfg.wire.scopePerPkt ∧ State.reset.cfg.wire.vuPerPkt = 4 ∧ 1 < 256 := by
  decide

/-- For each clause of `FeedTakesOneByte`, `SyncRowsMoveTheDecoder`, `BodyRowStoresTheByte` and `CheckRowComparesTheChecksum`. -/
theorem witness_decoder_rows :
    cfg16.wire.sync0 ≠ cfg16.wire.sync1 ∧ (0x13#8 ≠ cfg16.wire.sync0 ∧ 0x13#8 ≠ cfg16.wire.sync1) ∧
    (decoderAt .s0 0).dec.st = .s0 ∧ (decoderAt .s1 57).dec.st = .s1 ∧
    ((decoderAt .s2 0).dec.st = .s2 ∧ (decoderAt .s2 0).dec.cur < cfg16.wire.bodyLen .v59) ∧
    ((decoderAt .s2 55).dec.st = .s2 ∧ (decoderAt .s2 55).dec.cur < cfg16.wire.bodyLen .v59) ∧
    ((decoderAt .s2 56).dec.st = .s2 ∧ (decoderAt .s2 56).dec.cur = cfg16.wire.bodyLen .v59 ∧
      (decoderAt .s2 56).dec.buf.length = cfg16.wire.bodyLen .v59 + 1) := by
  decide

theorem witness_ByteClassRowsAreTheByteFed : encode cfg16.wire (.decS2Body 0xAA#8 : Instr) = .wire 0xAA#8 := rfl

theorem witness_ParseDeliversFieldsAsReceived : (List.replicate 113 (0 : Byte)).length = WireFormat.bodyLen {} .v116 := by
  simp [WireFormat.bodyLen, Variant.hasScope, Variant.hasVu]

/-- For `DatagramRoundTrip`: every value at the end of its legal range. -/
theorem witness_DatagramRoundTrip :
    InWireRange cfg16.wire (List.replicate 53 11) (List.replicate 53 10) (List.replicate 4 53) ∧ busy.cfg.encVariant = busy.cfg.decVariant := by
  refine ⟨?_, rfl⟩
  unfold InWireRange PacketArrays
  decide +kernel

theorem witness_StreamRoundTrip :
    let pkt := encodePacket cfg16.wire .v59 1 2 3 (List.replicate 53 11) false (List.replicate 53 10) false (List.replicate 4 53)
    (pending (feedInputs pkt ++ [Input.reset])).cfg.Valid ∧ (pending (feedInputs pkt ++ [Input.reset])).dec.st = .s0 ∧
    (pending (feedInputs pkt ++ [Input.reset])).dec.buf.length = cfg16.wire.bodyLen .v59 + 1 ∧
    (pending (feedInputs pkt ++ [Input.reset])).cfg.decVariant = .v59 ∧
    InWireRange cfg16.wire (List.replicate 53 11) (List.replicate 53 10) (List.replicate 4 53) :=
  ⟨cfg16_valid, rfl, rfl, rfl, witness_DatagramRoundTrip.1⟩

theorem witness_SingleBitFlipIsRejected :
    0 < packetX1.length ∧ 58 < packetX1.length ∧ 7 < 8 ∧
    ∃ t f, exec (.decValidate packetX1) busy = .next t ∧ t.result = .validated (some f) := by
  refine ⟨by decide, by decide, by decide, _, ⟨0, 7, 128, List.replicate 53 0, none, none⟩, rfl, ?_⟩
  decide +kernel

/-- For `GarbageBeforeAPacketCostsNothing`: the garbage of P2 before the packet of X1. -/
theorem witness_GarbageBeforeAPacketCostsNothing :
    cfg16.wire.sync0 ≠ cfg16.wire.sync1 ∧ busy.dec.st = .s0 ∧ busy.dec.buf.length = cfg16.wire.bodyLen .v59 + 1 ∧
    NoSyncPair cfg16.wire [0x00, 0x55, 0xAA, 0x13, 0xFF] ∧
    ∃ f, validatePacket cfg16.wire .v59 packetX1 = some f := by
  refine ⟨by decide, rfl, rfl, ?_, ⟨0, 7, 128, List.replicate 53 0, none, none⟩, by decide +kernel⟩
  intro pre post h
  have hw : cfg16.wire = {} := rfl
  rw [hw] at h
  rcases pre with _ | ⟨a, _ | ⟨b, _ | ⟨c, _ | ⟨d, _ | ⟨e, pre⟩⟩⟩⟩⟩ <;> simp at h

theorem witness_BodyWindowEndsAfterItsLength :
    (decoderAt .s2 0).dec.st = .s2 ∧ (decoderAt .s2 0).dec.cur = 0 ∧ (decoderAt .s2 0).dec.buf.length = cfg16.wire.bodyLen .v59 + 1 ∧
    (List.replicate 56 (0 : Byte)).length ≤ cfg16.wire.bodyLen .v59 ∧ (List.replicate 57 (0 : Byte)).length = cfg16.wire.bodyLen .v59 + 1 := by
  decide

/-- For the clauses of `PublishReplacesTheSlot`. -/
theorem witness_PublishReplacesTheSlot :
    (List.replicate 4 (0 : Byte)).length = busy.cfg.nBands ∧ (List.replicate 5 (0 : Byte)).length = busy.cfg.scopeCols ∧
    (List.replicate 3 (0 : Byte)).length ≠ busy.cfg.nBands ∧ (List.replicate 6 (0 : Byte)).length ≠ busy.cfg.scopeCols := by
  decide

theorem witness_RepeatedTicksReturnTheSameSlot :
    (pending (List.replicate 3 (Input.word (encode cfg16.wire (Instr.fsTick 9))) ++ [Input.reset])).cfg.Valid ∧
    (pending (List.replicate 3 (Input.word (encode cfg16.wire (Instr.fsTick 9))) ++ [Input.reset])).inbox =
      List.replicate (2 + 1) (Input.word (encode cfg16.wire (Instr.fsTick 9))) ++ [Input.reset] :=
  ⟨cfg16_valid, rfl⟩

/-- For `RneRoundsToNearestEven`, `ToDbIsMonotoneAndBounded`, `TrackAndSmoothStayBetween` and `WindowWidthIsPositive`. -/
theorem witness_numerics :
    |((rne (5 / 2 : Number) : Int) : Number) - 5 / 2| = 1 / 2 ∧
    ((2 : Int) : Number) ≤ 5 / 2 ∧ (5 / 2 : Number) ≤ ((3 : Int) : Number) ∧ (0 : Number) ≤ 1 ∧
    (0 : Number) < 9 / 10 ∧ (9 / 10 : Number) ≤ 1 ∧ (-60 : Number) ≤ -60 ∧ (0 : Number) < 8 ∧ (0 : Number) < 55 := by
  decide +kernel

theorem witness_SpansStayInsideTheSpectrum : cfg16.Valid ∧ exact16.Valid ∧ 3 < cfg16.nBands := ⟨cfg16_valid, exact16_valid, by decide⟩

theorem witness_GeneratedTablesAreTheFormulas :
    1 ≤ exact16.nb ∧ 1 ≤ exact16.nBands ∧ 0 < exact16.fminHz ∧ exact16.fminHz < exact16.fmaxHz ∧ 0 < exact16.fsHz ∧ 2 ≤ 8 := by
  norm_num [exact16, ConfigOf.exactReference, ConfigOf.reference]

/-- For `ToDbIsMonotoneAndBounded` and `GeneratedTablesAreTheFormulas`: functions that meet the laws, over the rationals and the reals. -/
theorem witness_Laws : NumFns.coarse.Laws ∧ NumFns.exact.Laws ∧ (1 / 10 ^ 10 : Number) ≤ 1 :=
  ⟨NumFns.coarse_laws, NumFns.exact_laws, by norm_num⟩

/-- For the first clause of `ScalingABlockShiftsTheLevels`: the factor ten on a block whose first band has the mean 1. -/
theorem witness_ScalingABlock :
    cfg16.Valid ∧ (List.replicate 16 (1 : Number)).length = cfg16.nb ∧ 0 < cfg16.nBands ∧ (0 : Number) < 10 ∧
    ScalesBy NumFns.coarse 10 ∧
    (bandMeans cfg16 (rfftMag NumFns.coarse cfg16.nb (windowedBlock cfg16 (List.replicate 16 1)))).getD 0 0 = 1 ∧
    cfg16.magFloor ≤ 1 ∧ cfg16.magFloor ≤ 10 * 1 := by
  have h := NumFns.coarse_laws
  refine ⟨cfg16_valid, rfl, by decide, by norm_num, ⟨fun x hx => ?_, fun x hx => ?_⟩, by decide +kernel, by decide +kernel, by decide +kernel⟩
  · have h1 := h.log10_zpow 1
    norm_num at h1
    rw [h.log10_ten_mul x hx, h1]
  · rw [← h.sqrt_hundred_mul x hx]
    norm_num

/-- For its second clause: neither the tracker nor the window is pinned, before or after a shift by 20 dB. -/
theorem witness_ScalingShift :
    let tp : Number := track (-5) (maxNums [0, -10, -20, -30]) cfg16.saRise cfg16.saRelease
    ([0, -10, -20, -30] : List Number) ≠ [] ∧
    ∀ x ∈ [tp, tp + 20], cfg16.saDbFloor ≤ x ∧ cfg16.saDbFloor ≤ x + cfg16.saHeadroomDb - cfg16.saRangeDb := by
  decide +kernel

/-- For `RationalRunsAreRealRuns`: every four functions of rationals are the values of four real functions there. -/
theorem agrees_exists (g : NumFns Number) : ∃ f : NumFns ℝ, AgreesWith f g := by
  have h : Function.Injective fun x : Number => (x : ℝ) := fun _ _ h => Rat.cast_injective h
  let up := fun g : Number → Number => Function.extend (fun x : Number => (x : ℝ)) (fun x => (g x : ℝ)) 0
  have e : ∀ (g : Number → Number) (x : Number), up g (x : ℝ) = (g x : ℝ) := fun g x => h.extend_apply _ _ x
  exact ⟨⟨up g.log10, up g.sqrt, up g.cosTurn, up g.sinTurn⟩, fun x => ⟨e _ x, e _ x, e _ x, e _ x⟩⟩

/-- For the clauses of `RationalRunsAreRealRuns`: a step and an instruction that answer, and an instruction outside SA and LM. -/
theorem witness_RationalRunsAreRealRuns :
    (∃ f : NumFns ℝ, AgreesWith f (pending [.reset]).cfg.fns) ∧ (pending [.reset]).inbox = .reset :: [] ∧
    (∃ t, step (pending [.reset]) = .next t) ∧
    (∃ t, exec (.saProcess (List.replicate 16 1)) busy = .next t) ∧
    unitOf (.wtProcess [1] : Instr) ≠ .sa ∧ unitOf (.wtProcess [1] : Instr) ≠ .lm ∧ ∃ t, exec (.wtProcess [1]) busy = .next t := by
  refine ⟨agrees_exists _, rfl, ?_, ⟨_, exec_eq _ _⟩, by decide, by decide, _, exec_eq _ _⟩
  rw [step_of_valid cfg16_valid]
  exact ⟨_, rfl⟩

end Sys2Proof.Tests
end

section
/-!
A step on a pending word (R5, R74, R98).
-/

namespace Sys2Proof.Machine

/-- Settles O5: the word at the front of the inbox is fetched, and the decoder's position does not depend on the inbox. -/
theorem stepRunsTheDecodedInstruction : Obligations.StepRunsTheDecodedInstruction := by
  intro s w rest i hvalid hinbox hdecode
  have hpos : State.decPos { s with inbox := rest } = s.decPos := rfl
  rw [step_of_valid hvalid, State.fetch_cons hinbox]
  simp only [stepInput, hpos, hdecode]

end Sys2Proof.Machine
end

section
/-!
`to_db` (R122) under the laws of the numerics functions (R9): what it is above and below the magnitude floor, for any positive floor,
and its values with the default floor.
-/

namespace Sys2Proof

/-- The functions of every record meet the laws: the record carries the proof (log 1, log 17). -/
theorem Config.fns_laws (c : Config) : c.fns.Laws := (Config.numericsNamed c.numerics).lawful.toLaws

theorem NumFns.Laws.log10_one {K : Type} [Field K] [LinearOrder K] {f : NumFns K} (hf : f.Laws) : f.log10 1 = 0 := by
  simpa using hf.log10_zpow 0

/-- The default `MAG_FLOOR` of R7 is the power `10^(-10)`, whose logarithm the laws give. -/
theorem NumFns.Laws.log10_defaultFloor {K : Type} [Field K] [LinearOrder K] [IsStrictOrderedRing K] {f : NumFns K} (hf : f.Laws) :
    f.log10 (1 / 10 ^ 10) = -10 := by
  have h := hf.log10_zpow (-10)
  norm_num at h ⊢
  exact h

end Sys2Proof

namespace Sys2Proof.Machine

variable {K : Type} [Field K] [LinearOrder K]

theorem toDb_of_le {f : NumFns K} {magFloor v : K} (h : magFloor ≤ v) : toDb f magFloor v = 20 * f.log10 v := by
  rw [toDb, max_eq_left h]

theorem toDb_of_ge {f : NumFns K} {magFloor v : K} (h : v ≤ magFloor) : toDb f magFloor v = 20 * f.log10 magFloor := by
  rw [toDb, max_eq_right h]

variable [IsStrictOrderedRing K] {f : NumFns K} {magFloor : K}

theorem toDb_mono (hf : f.Laws) (hfloor : 0 < magFloor) {u v : K} (h : u ≤ v) : toDb f magFloor u ≤ toDb f magFloor v :=
  mul_le_mul_of_nonneg_left (hf.log10_mono _ _ (lt_max_of_lt_right hfloor) (max_le_max_right _ h)) (by norm_num)

theorem toDb_floor_le (hf : f.Laws) (hfloor : 0 < magFloor) (v : K) : 20 * f.log10 magFloor ≤ toDb f magFloor v :=
  mul_le_mul_of_nonneg_left (hf.log10_mono _ _ hfloor (le_max_right _ _)) (by norm_num)

theorem toDb_ten_mul (hf : f.Laws) (hfloor : 0 < magFloor) {v : K} (h : magFloor ≤ v) :
    toDb f magFloor (10 * v) = toDb f magFloor v + 20 := by
  have hv : 0 < v := hfloor.trans_le h
  rw [toDb_of_le h, toDb_of_le (by linarith), hf.log10_ten_mul v hv]
  ring

/-- Settles O55: the laws give the logarithm at the floor and at 1, and monotonicity does the rest. -/
theorem toDbIsMonotoneAndBounded : Obligations.ToDbIsMonotoneAndBounded := by
  refine ⟨Config.fns_laws, NumFns.exact_laws, ?_⟩
  intro K _ _ _ f hf
  have hfloor : (0 : K) < 1 / 10 ^ 10 := by positivity
  have hbottom : 20 * f.log10 (1 / 10 ^ 10) = -200 := by rw [hf.log10_defaultFloor]; norm_num
  refine ⟨fun u v => toDb_mono hf hfloor, fun v => ?_, ?_, ?_, fun v => toDb_ten_mul hf hfloor⟩
  · exact hbottom ▸ toDb_floor_le hf hfloor v
  · rw [toDb_of_ge hfloor.le, hbottom]
  · rw [toDb_of_le (by norm_num), hf.log10_one, mul_zero]

end Sys2Proof.Machine
end

section
/-!
The bytes of a packet by position (R91 to R93, R211), and `ENC.ENCODE` from them (R210 to R214).
-/

namespace Sys2Proof

/-! ## A packet around its body -/

theorem packetOf_getD_sync0 (f : WireFormat) (body : List Byte) (checksum : Byte) :
    (packetOf f body checksum).getD 0 0 = f.sync0 := rfl

theorem packetOf_getD_sync1 (f : WireFormat) (body : List Byte) (checksum : Byte) :
    (packetOf f body checksum).getD 1 0 = f.sync1 := rfl

theorem packetOf_getD_body (f : WireFormat) {body : List Byte} (checksum : Byte) {i : Nat} (h : i < body.length) :
    (packetOf f body checksum).getD (2 + i) 0 = body.getD i 0 := by
  simp [packetOf, Nat.add_comm 2 i, List.getElem?_append_left h]

theorem packetOf_getD_checksum (f : WireFormat) (body : List Byte) (checksum : Byte) :
    (packetOf f body checksum).getD (body.length + 2) 0 = checksum := by
  simp [packetOf]

theorem packetOf_body (f : WireFormat) (body : List Byte) (checksum : Byte) :
    ((packetOf f body checksum).drop 2).take body.length = body := by
  simp [packetOf]

/-! ## The fields of a body -/

theorem Variant.hasScope_iff {v : Variant} : v.hasScope = true ↔ v ≠ .v59 := by cases v <;> decide

theorem Variant.hasVu_iff {v : Variant} : v.hasVu = true ↔ v = .v116 := by cases v <;> decide

section Body

variable (boardId frameSeq brightness : Byte) (bars scope vu : List Byte)

theorem bodyOf_getD_bars (v : Variant) {i : Nat} (h : i < bars.length) :
    (bodyOf v boardId frameSeq brightness bars scope vu).getD (3 + i) 0 = bars.getD i 0 := by
  simp [bodyOf, Nat.add_comm 3 i, List.getElem?_append_left h]

theorem bodyOf_getD_scope {v : Variant} (hv : v.hasScope = true) {i : Nat} (h : i < scope.length) :
    (bodyOf v boardId frameSeq brightness bars scope vu).getD (3 + bars.length + i) 0 = scope.getD i 0 := by
  have hi : 3 + bars.length + i = bars.length + i + 3 := by omega
  simp [bodyOf, hv, hi, List.getElem?_append_right, List.getElem?_append_left h]

theorem bodyOf_getD_vu {v : Variant} (hs : v.hasScope = true) (hv : v.hasVu = true) (i : Nat) :
    (bodyOf v boardId frameSeq brightness bars scope vu).getD (3 + bars.length + scope.length + i) 0 = vu.getD i 0 := by
  have hi : 3 + bars.length + scope.length + i = bars.length + (scope.length + i) + 3 := by omega
  simp [bodyOf, hs, hv, hi, List.getElem?_append_right]

end Body

end Sys2Proof

namespace Sys2Proof.Machine

/-- A byte of a section: clamped where the section is enabled, zero elsewhere (R212, R213). -/
theorem sectionBytes_getD_toNat (enabled : Bool) (limit : Byte) (operand : List Byte) (i : Nat) :
    ((sectionBytes enabled limit operand).getD i 0).toNat =
      if enabled then min (operand.getD i 0).toNat limit.toNat else 0 := by
  rcases lt_or_ge i operand.length with h | h <;> cases enabled <;> simp [sectionBytes, h, clampByte_toNat]

theorem xorFold_eq_xorBytes (bs : List Byte) : xorFold bs = xorBytes bs := by
  simp [xorFold, foldl_xor]

theorem encodeAnswer_of_not_packetArrays {K : Type} {c : ConfigOf K} {bars scope vu : List Byte} (h : ¬ PacketArrays c.wire bars scope vu)
    (boardId frameSeq brightness : Byte) (scopeEn vuEn : Bool) :
    encodeAnswer boardId frameSeq brightness bars scopeEn scope vuEn vu c = .refused .operandShape := by
  have hfit : encoderArraysFit c.wire bars scope vu = false := Bool.eq_false_iff.mpr (mt encoderArraysFit_eq_true.mp h)
  simp only [encodeAnswer, hfit]

/-! ## The packet of fitting arrays, byte by byte -/

section Packet

variable {f : WireFormat} {bars scope vu : List Byte}

theorem encodeBody_length (h : PacketArrays f bars scope vu) (v : Variant) (boardId frameSeq brightness : Byte) (scopeEn vuEn : Bool) :
    (encodeBody f v boardId frameSeq brightness bars scopeEn scope vuEn vu).length = f.bodyLen v := by
  obtain ⟨hb, hs, hv⟩ := h
  exact bodyOf_length v ((sectionBytes_length ..).trans hb) (fun _ => (sectionBytes_length ..).trans hs)
    (fun _ => (sectionBytes_length ..).trans hv) ..

theorem encodePacket_length (h : PacketArrays f bars scope vu) (v : Variant) (boardId frameSeq brightness : Byte)
    (scopeEn vuEn : Bool) : (encodePacket f v boardId frameSeq brightness bars scopeEn scope vuEn vu).length = f.pktLen v := by
  rw [encodePacket, packetOf_length, encodeBody_length h, WireFormat.pktLen]

theorem encodePacket_getD_bars (h : PacketArrays f bars scope vu) (v : Variant) (boardId frameSeq brightness : Byte)
    (scopeEn vuEn : Bool) {i : Nat} (hi : i < f.barsPerPkt) :
    ((encodePacket f v boardId frameSeq brightness bars scopeEn scope vuEn vu).getD (5 + i) 0).toNat =
      min (bars.getD i 0).toNat f.barClamp.toNat := by
  have hin : 3 + i < f.bodyLen v := by rw [WireFormat.bodyLen]; omega
  have ⟨hb, _, _⟩ := h
  have hbars : i < (sectionBytes true f.barClamp bars).length := by rwa [sectionBytes_length, hb]
  rw [encodePacket, show 5 + i = 2 + (3 + i) by omega, packetOf_getD_body _ _ (by rwa [encodeBody_length h]), encodeBody,
    bodyOf_getD_bars _ _ _ _ _ _ _ hbars, sectionBytes_getD_toNat, if_pos rfl]

theorem encodePacket_getD_scope (h : PacketArrays f bars scope vu) {v : Variant} (hv : v.hasScope = true)
    (boardId frameSeq brightness : Byte) (scopeEn vuEn : Bool) {i : Nat} (hi : i < f.scopePerPkt) :
    ((encodePacket f v boardId frameSeq brightness bars scopeEn scope vuEn vu).getD (5 + f.barsPerPkt + i) 0).toNat =
      if scopeEn then min (scope.getD i 0).toNat f.scopeClamp.toNat else 0 := by
  have hin : 3 + f.barsPerPkt + i < f.bodyLen v := by rw [WireFormat.bodyLen, if_pos hv]; omega
  have ⟨hb, hs, _⟩ := h
  have hscope : i < (sectionBytes scopeEn f.scopeClamp scope).length := by rwa [sectionBytes_length, hs]
  have hpos := bodyOf_getD_scope boardId frameSeq brightness (sectionBytes true f.barClamp bars) _
    (sectionBytes vuEn f.vuClamp vu) hv hscope
  rw [sectionBytes_length, hb] at hpos
  rw [encodePacket, show 5 + f.barsPerPkt + i = 2 + (3 + f.barsPerPkt + i) by omega,
    packetOf_getD_body _ _ (by rwa [encodeBody_length h]), encodeBody, hpos, sectionBytes_getD_toNat]

theorem encodePacket_getD_vu (h : PacketArrays f bars scope vu) {v : Variant} (hs : v.hasScope = true) (hv : v.hasVu = true)
    (boardId frameSeq brightness : Byte) (scopeEn vuEn : Bool) {i : Nat} (hi : i < f.vuPerPkt) :
    ((encodePacket f v boardId frameSeq brightness bars scopeEn scope vuEn vu).getD (5 + f.barsPerPkt + f.scopePerPkt + i) 0).toNat =
      if vuEn then min (vu.getD i 0).toNat f.vuClamp.toNat else 0 := by
  have hin : 3 + f.barsPerPkt + f.scopePerPkt + i < f.bodyLen v := by rw [WireFormat.bodyLen, if_pos hs, if_pos hv]; omega
  have hpos := bodyOf_getD_vu boardId frameSeq brightness (sectionBytes true f.barClamp bars) (sectionBytes scopeEn f.scopeClamp scope)
    (sectionBytes vuEn f.vuClamp vu) hs hv i
  have ⟨hbars, hscope, _⟩ := h
  rw [sectionBytes_length, sectionBytes_length, hbars, hscope] at hpos
  rw [encodePacket, show 5 + f.barsPerPkt + f.scopePerPkt + i = 2 + (3 + f.barsPerPkt + f.scopePerPkt + i) by omega,
    packetOf_getD_body _ _ (by rwa [encodeBody_length h]), encodeBody, hpos, sectionBytes_getD_toNat]

theorem encodePacket_getD_checksum (h : PacketArrays f bars scope vu) (v : Variant) (boardId frameSeq brightness : Byte)
    (scopeEn vuEn : Bool) :
    let pkt := encodePacket f v boardId frameSeq brightness bars scopeEn scope vuEn vu
    pkt.getD (f.pktLen v - 1) 0 = xorFold ((pkt.drop 2).take (f.bodyLen v)) := by
  intro pkt
  have hlen : f.bodyLen v = (encodeBody f v boardId frameSeq brightness bars scopeEn scope vuEn vu).length :=
    (encodeBody_length h v boardId frameSeq brightness scopeEn vuEn).symm
  have hlast : f.pktLen v - 1 = (encodeBody f v boardId frameSeq brightness bars scopeEn scope vuEn vu).length + 2 := by
    rw [← hlen, WireFormat.pktLen, Nat.add_sub_assoc (by omega)]
  rw [hlast, hlen, xorFold_eq_xorBytes]
  simp only [pkt, encodePacket, packetOf_getD_checksum, packetOf_body]

end Packet

/-- Settles O35: the sync marker and the header stand at the front, and the sections and the checksum are read by position. -/
theorem encodeReturnsThePacket : Obligations.EncodeReturnsThePacket := by
  intro boardId frameSeq brightness bars scopeEn scope vuEn vu s v w
  refine ⟨fun h => ?_, fun h => ?_⟩
  · refine ⟨encodePacket w v boardId frameSeq brightness bars scopeEn scope vuEn vu, ?_, encodePacket_length h .., rfl, rfl, rfl, rfl, rfl,
      fun i hi => encodePacket_getD_bars h _ _ _ _ _ _ hi, fun hv i hi => ?_, fun hv i hi => ?_, encodePacket_getD_checksum h ..⟩
    · obtain ⟨hb, hs, hv⟩ := h
      rw [exec_encEncode_eq, encodeAnswer_of_lengths hb hs hv]
    · exact encodePacket_getD_scope h (Variant.hasScope_iff.mpr hv) _ _ _ _ _ hi
    · have hs : v.hasScope = true := by rw [hv]; rfl
      exact encodePacket_getD_vu h hs (Variant.hasVu_iff.mpr hv) _ _ _ _ _ hi
  · rw [exec_encEncode_eq, encodeAnswer_of_not_packetArrays h]

end Sys2Proof.Machine
end

section
/-!
Reading the machine's rational numbers as real numbers (log 1): the coercion commutes with every numeric function of
`40_common_numerics_bandmapper.md`, exactly (R121). Comparisons, floors and sums of rationals are those of the reals they are.
-/

namespace Sys2Proof.Machine

/-! ## Functions of numbers (R122 to R131) -/

theorem AgreesWith.log10 {f : NumFns ℝ} {g : NumFns Number} (h : AgreesWith f g) (x : Number) : f.log10 (x : ℝ) = (g.log10 x : ℝ) := by
  obtain ⟨hlog, -, -, -⟩ := h x
  exact hlog

theorem AgreesWith.sqrt {f : NumFns ℝ} {g : NumFns Number} (h : AgreesWith f g) (x : Number) : f.sqrt (x : ℝ) = (g.sqrt x : ℝ) := by
  obtain ⟨-, hsqrt, -, -⟩ := h x
  exact hsqrt

theorem AgreesWith.cosTurn {f : NumFns ℝ} {g : NumFns Number} (h : AgreesWith f g) (x : Number) :
    f.cosTurn (x : ℝ) = (g.cosTurn x : ℝ) := by
  obtain ⟨-, -, hcos, -⟩ := h x
  exact hcos

theorem AgreesWith.sinTurn {f : NumFns ℝ} {g : NumFns Number} (h : AgreesWith f g) (x : Number) :
    f.sinTurn (x : ℝ) = (g.sinTurn x : ℝ) := by
  obtain ⟨-, -, -, hsin⟩ := h x
  exact hsin

@[norm_cast] theorem cast_clamp (v lo hi : Number) : ((clamp v lo hi : Number) : ℝ) = clamp (v : ℝ) lo hi := by
  rw [clamp, clamp, Rat.cast_max, Rat.cast_min]

@[norm_cast] theorem trunc_cast (v : Number) : trunc (v : ℝ) = trunc v := by
  simp only [trunc, Rat.cast_nonneg, Rat.floor_cast, Rat.ceil_cast]

@[norm_cast] theorem rne_cast (v : Number) : rne (v : ℝ) = rne v := by
  have hlt : (v : ℝ) - ⌊v⌋ < 1 / 2 ↔ v - ⌊v⌋ < 1 / 2 := by rw [← Rat.cast_lt (K := ℝ)]; push_cast; rfl
  have hgt : 1 / 2 < (v : ℝ) - ⌊v⌋ ↔ 1 / 2 < v - ⌊v⌋ := by rw [← Rat.cast_lt (K := ℝ)]; push_cast; rfl
  simp only [rne, Rat.floor_cast, hlt, hgt]

theorem cast_toDb {f : NumFns ℝ} {g : NumFns Number} (h : AgreesWith f g) (magFloor v : Number) :
    ((toDb g magFloor v : Number) : ℝ) = toDb f magFloor v := by
  rw [toDb, toDb, ← Rat.cast_max, h.log10]
  push_cast
  rfl

@[norm_cast] theorem cast_track (tp m rise rel : Number) : ((track tp m rise rel : Number) : ℝ) = track (tp : ℝ) m rise rel := by
  rcases lt_or_ge tp m with h | h
  · rw [track_of_gt h, track_of_gt (Rat.cast_lt.mpr h)]
    push_cast
    rfl
  · rw [track_of_le h, track_of_le (Rat.cast_le.mpr h)]
    push_cast
    rfl

@[norm_cast] theorem cast_trackDb (tp m rise rel dbFloor : Number) :
    ((trackDb tp m rise rel dbFloor : Number) : ℝ) = trackDb (tp : ℝ) m rise rel dbFloor := by
  rw [trackDb, trackDb, Rat.cast_max, cast_track]

theorem cast_displayWindow_ceil (tp headroom range dbFloor : Number) :
    (((displayWindow tp headroom range dbFloor).ceil : Number) : ℝ) = (displayWindow (tp : ℝ) headroom range dbFloor).ceil :=
  Rat.cast_add _ _

theorem cast_displayWindow_floor (tp headroom range dbFloor : Number) :
    (((displayWindow tp headroom range dbFloor).floor : Number) : ℝ) = (displayWindow (tp : ℝ) headroom range dbFloor).floor := by
  simp only [displayWindow]
  push_cast
  rfl

/-- A level in a window whose two ends are read as reals. -/
theorem cast_norm01 (d : Number) {w : Window Number} {w' : Window ℝ} (hc : (w.ceil : ℝ) = w'.ceil) (hf : (w.floor : ℝ) = w'.floor) :
    ((norm01 d w : Number) : ℝ) = norm01 (d : ℝ) w' := by
  rw [norm01, norm01, cast_clamp, ← hc, ← hf]
  push_cast
  rfl

@[norm_cast] theorem cast_smooth (cur target attack decay : Number) :
    ((smooth cur target attack decay : Number) : ℝ) = smooth (cur : ℝ) target attack decay := by
  by_cases h : cur ≤ target <;> simp [smooth, h]

/-! ## Sequences -/

section Sequences

variable (l : List Number)

@[simp] theorem reals_length : (reals l).length = l.length := List.length_map _

@[simp] theorem reals_append (l' : List Number) : reals (l ++ l') = reals l ++ reals l' := List.map_append

@[simp] theorem reals_take (n : Nat) : reals (l.take n) = (reals l).take n := List.map_take

@[simp] theorem reals_drop (n : Nat) : reals (l.drop n) = (reals l).drop n := List.map_drop

@[simp] theorem reals_replicate_zero (n : Nat) : reals (List.replicate n 0) = List.replicate n 0 := by
  simp [reals]

@[simp] theorem reals_getD (i : Nat) : (reals l).getD i 0 = (l.getD i 0 : ℝ) := by
  simpa [reals] using List.getD_map (l := l) (n := i) (d := 0) (fun x : Number => (x : ℝ))

@[simp] theorem reals_zipIdx : (reals l).zipIdx = l.zipIdx.map fun p => ((p.1 : ℝ), p.2) := by
  rw [reals, List.zipIdx_map]
  rfl

/-- A sequence computed from indices is read element by element. -/
theorem reals_map_of {α : Type} {g : α → Number} {g' : α → ℝ} (h : ∀ a, (g a : ℝ) = g' a) (as : List α) :
    reals (as.map g) = as.map g' := by
  simp [reals, Function.comp_def, h]

/-- A sequence computed from another one is read element by element. -/
theorem reals_map {g : Number → Number} {g' : ℝ → ℝ} (h : ∀ x : Number, (g x : ℝ) = g' x) : reals (l.map g) = (reals l).map g' := by
  simp [reals, Function.comp_def, h]

/-- A function that answers the same at a number and at the real it is. -/
theorem map_reals {β : Type} {g : Number → β} {g' : ℝ → β} (h : ∀ x : Number, g' x = g x) : (reals l).map g' = l.map g := by
  simp [reals, Function.comp_def, h]

theorem reals_zipWith {g : Number → Number → Number} {g' : ℝ → ℝ → ℝ} (h : ∀ x y : Number, (g x y : ℝ) = g' x y) (l' : List Number) :
    reals (List.zipWith g l l') = List.zipWith g' (reals l) (reals l') := by
  simp [reals, List.map_zipWith, List.zipWith_map, h]

theorem cast_sumNums : ((sumNums l : Number) : ℝ) = sumNums (reals l) := by
  rw [sumNums_eq_sum, sumNums_eq_sum, Rat.cast_list_sum]
  rfl

theorem cast_maxNums : ((maxNums l : Number) : ℝ) = maxNums (reals l) := by
  induction l with
  | nil => exact Rat.cast_zero
  | cons x l ih =>
    cases l with
    | nil => rfl
    | cons y l => exact (Rat.cast_max _ _).trans (congrArg _ ih)

theorem cast_meanSlice (s : Nat × Nat) : ((meanSlice l s : Number) : ℝ) = meanSlice (reals l) s := by
  rw [meanSlice, meanSlice, Rat.cast_div, cast_sumNums, Rat.cast_natCast, reals_take, reals_drop]

end Sequences

/-! ## The magnitude spectrum (R139) -/

section Spectrum

variable {f : NumFns ℝ} {g : NumFns Number}

theorem cast_dftRe (h : AgreesWith f g) (x : List Number) (nb k : Nat) : ((dftRe g x nb k : Number) : ℝ) = dftRe f (reals x) nb k := by
  rw [dftRe, dftRe, cast_sumNums, reals_zipIdx, List.map_map]
  refine congrArg sumNums (reals_map_of (fun p => ?_) _)
  rw [Rat.cast_mul, ← h.cosTurn]
  push_cast
  rfl

theorem cast_dftIm (h : AgreesWith f g) (x : List Number) (nb k : Nat) : ((dftIm g x nb k : Number) : ℝ) = dftIm f (reals x) nb k := by
  rw [dftIm, dftIm, Rat.cast_neg, cast_sumNums, reals_zipIdx, List.map_map]
  refine congrArg (fun l => -sumNums l) (reals_map_of (fun p => ?_) _)
  rw [Rat.cast_mul, ← h.sinTurn]
  push_cast
  rfl

theorem cast_dftMag (h : AgreesWith f g) (x : List Number) (nb k : Nat) :
    ((dftMag g x nb k : Number) : ℝ) = dftMag f (reals x) nb k := by
  rw [dftMag, dftMag, ← h.sqrt, ← cast_dftRe h, ← cast_dftIm h]
  push_cast
  rfl

theorem reals_rfftMag (h : AgreesWith f g) (nb : Nat) (x : List Number) : reals (rfftMag g nb x) = rfftMag f nb (reals x) :=
  reals_map_of (cast_dftMag h x nb) _

end Spectrum

end Sys2Proof.Machine
end

section
/-!
The units' operations over the rationals, read as reals: band and channel levels, trackers, smoothers and traces are those of the block
over the reals with the record read as reals.
-/

namespace Sys2Proof.Machine

variable {f : NumFns ℝ} {g : NumFns Number} (c : Config)

/-! ## `SA.PROCESS` (R152 to R158) -/

theorem reals_windowedBlock (blk : List Number) : reals (windowedBlock c blk) = windowedBlock (realConfig c) (reals blk) :=
  reals_zipWith _ (fun x w => Rat.cast_mul x w) _

theorem reals_bandMeans (mag : List Number) : reals (bandMeans c mag) = bandMeans (realConfig c) (reals mag) :=
  reals_map_of (fun i => cast_meanSlice mag (span c.edges i)) _

theorem reals_bandLevels (h : AgreesWith f g) (blk : List Number) :
    reals (bandLevels g c blk) = bandLevels f (realConfig c) (reals blk) := by
  rw [bandLevels, bandLevels, ← reals_windowedBlock, ← reals_rfftMag h, ← reals_bandMeans]
  exact reals_map _ (cast_toDb h c.magFloor)

theorem cast_saTracked (tp : Number) (d : List Number) :
    ((saTracked c tp d : Number) : ℝ) = saTracked (realConfig c) (tp : ℝ) (reals d) := by
  rw [saTracked, saTracked, cast_trackDb, cast_maxNums]
  rfl

theorem cast_saTarget (tp d : Number) :
    ((saTarget c (saWindow c tp) d : Number) : ℝ) = saTarget (realConfig c) (saWindow (realConfig c) (tp : ℝ)) (d : ℝ) := by
  rw [saTarget, saTarget, saWindow, Rat.cast_mul, Rat.cast_natCast,
    cast_norm01 d (cast_displayWindow_ceil ..) (cast_displayWindow_floor ..)]
  rfl

theorem realSa_saUpdate (d : List Number) (sa : SaState Number) :
    realSa (saUpdate c d sa) = saUpdate (realConfig c) (reals d) (realSa sa) := by
  have htp := cast_saTracked c sa.tp d
  have hcur : reals (saUpdate c d sa).cur = (saUpdate (realConfig c) (reals d) (realSa sa)).cur := by
    refine reals_zipWith _ (fun cur di => ?_) _
    rw [cast_smooth, cast_saTarget, htp]
    rfl
  rw [realSa, hcur, saUpdate_tp, htp]
  rfl

theorem saBars_realSa (sa : SaState Number) : saBars (realSa sa) = saBars sa := map_reals _ rne_cast

/-! ## `LM.PROCESS` (R172 to R177) -/

theorem cast_channelLevel (h : AgreesWith f g) (x : List Number) :
    ((channelLevel g c x : Number) : ℝ) = channelLevel f (realConfig c) (reals x) := by
  have hrms : ((rmsOf g c x : Number) : ℝ) = rmsOf f (realConfig c) (reals x) := by
    rw [rmsOf, rmsOf, ← h.sqrt, Rat.cast_div, cast_sumNums, reals_map x (g' := fun v => v * v) fun v => Rat.cast_mul v v,
      Rat.cast_natCast]
    rfl
  rw [channelLevel, channelLevel, cast_toDb h, hrms]
  rfl

theorem cast_lmTracked (tp dLeft dRight : Number) :
    ((lmTracked c tp dLeft dRight : Number) : ℝ) = lmTracked (realConfig c) (tp : ℝ) dLeft dRight := by
  rw [lmTracked, lmTracked, cast_trackDb, Rat.cast_max]
  rfl

theorem cast_lmTarget (tp d : Number) :
    ((lmTarget c (lmWindow c tp) d : Number) : ℝ) = lmTarget (realConfig c) (lmWindow (realConfig c) (tp : ℝ)) (d : ℝ) := by
  rw [lmTarget, lmTarget, lmWindow, Rat.cast_mul, Rat.cast_natCast,
    cast_norm01 d (cast_displayWindow_ceil ..) (cast_displayWindow_floor ..)]
  rfl

theorem cast_lmRmsNext (rms t : Number) : ((lmRmsNext c rms t : Number) : ℝ) = lmRmsNext (realConfig c) (rms : ℝ) t :=
  cast_smooth ..

theorem cast_lmPeakNext (peak t : Number) : ((lmPeakNext c peak t : Number) : ℝ) = lmPeakNext (realConfig c) (peak : ℝ) t := by
  by_cases h : peak ≤ t <;> simp [lmPeakNext, h, realConfig]

theorem realLm_lmUpdate (l r : Number) (lm : LmState Number) :
    realLm (lmUpdate c l r lm) = lmUpdate (realConfig c) (l : ℝ) (r : ℝ) (realLm lm) := by
  simp only [realLm, lmUpdate, cast_lmRmsNext, cast_lmPeakNext, cast_lmTarget, cast_lmTracked]

theorem lmLevels_realLm (lm : LmState Number) : lmLevels (realConfig c) (realLm lm) = lmLevels c lm := by
  simp only [lmLevels, lmOut, realLm, rne_cast]
  rfl

/-! ## `WT.PROCESS` (R191 to R196) -/

theorem risesAt_reals (blk : List Number) : risesAt (reals blk) = risesAt blk := by
  funext i
  simp only [risesAt, reals_getD, Rat.cast_nonpos, gt_iff_lt, Rat.cast_pos]

theorem triggerIndex_reals (blk : List Number) : triggerIndex (realConfig c) (reals blk) = triggerIndex c blk := by
  rw [triggerIndex, risesAt_reals]
  rfl

theorem reals_segmentOf (blk : List Number) (trig : Nat) :
    reals (segmentOf c blk trig) = segmentOf (realConfig c) (reals blk) trig := by
  simp [segmentOf, realConfig]

theorem cast_resamplePos (cols len j : Nat) : ((resamplePos cols len j : Number) : ℝ) = resamplePos cols len j := by
  by_cases h : cols = 1 <;> simp [resamplePos, h]

theorem cast_interpolate (seg : List Number) (pos : Number) :
    ((interpolate seg pos : Number) : ℝ) = interpolate (reals seg) (pos : ℝ) := by
  have hfr : (pos : ℝ) - (⌊pos⌋.toNat : ℝ) = ((pos - (⌊pos⌋.toNat : Number) : Number) : ℝ) := by push_cast; rfl
  simp only [interpolate, Rat.floor_cast, hfr, Rat.cast_eq_zero, reals_getD]
  split <;> push_cast <;> rfl

theorem reals_traceOf (blk : List Number) : reals (traceOf c blk) = traceOf (realConfig c) (reals blk) := by
  rw [traceOf, traceOf, triggerIndex_reals, ← reals_segmentOf, resample, resample, reals_length]
  refine reals_map_of (fun j => ?_) _
  rw [cast_interpolate, cast_resamplePos]
  rfl

theorem cast_wtTracked (tp : Number) (y : List Number) :
    ((wtTracked c tp y : Number) : ℝ) = wtTracked (realConfig c) (tp : ℝ) (reals y) := by
  have hpeak : ((peakOf y : Number) : ℝ) = peakOf (reals y) := by
    rw [peakOf, peakOf, cast_maxNums, reals_map y fun x => Rat.cast_abs x]
  rw [wtTracked, wtTracked, Rat.cast_max, cast_track, hpeak]
  rfl

theorem positionOf_cast (tp y : Number) : positionOf (realConfig c) (tp : ℝ) (y : ℝ) = positionOf c tp y := by
  have hv : (clamp ((y : ℝ) / tp) (-1) 1 + 1) / 2 * (c.maxY : ℝ) = (((clamp (y / tp) (-1) 1 + 1) / 2 * c.maxY : Number) : ℝ) := by
    push_cast [cast_clamp]
    rfl
  rw [positionOf, positionOf, ← trunc_cast, ← hv]
  rfl

end Sys2Proof.Machine
end

section
/-!
The block over the rationals simulated by the block over the reals (R9, R121, log 1): the record, the decoder, each instruction and the
step, read as reals.
-/

namespace Sys2Proof.Machine

/-! ## The record -/

section Record

variable (c : Config)

theorem realConfig_sizesValid : (realConfig c).SizesValid ↔ c.SizesValid := Iff.rfl

theorem realConfig_tablesValid : (realConfig c).TablesValid ↔ c.TablesValid := by
  simp [ConfigOf.TablesValid, realConfig]

theorem rate_cast (r : Number) : ConfigOf.Rate (r : ℝ) ↔ ConfigOf.Rate r := by
  rw [ConfigOf.Rate, Rat.cast_pos, ← Rat.cast_one, Rat.cast_le]

theorem realConfig_ratesValid : (realConfig c).RatesValid ↔ c.RatesValid := by
  simp only [ConfigOf.RatesValid, realConfig, rate_cast, Rat.cast_le]

theorem realConfig_floorsValid : (realConfig c).FloorsValid ↔ c.FloorsValid := by
  simp only [ConfigOf.FloorsValid, realConfig, Rat.cast_pos]

theorem realConfig_valid : (realConfig c).Valid ↔ c.Valid := by
  rw [ConfigOf.valid_iff, ConfigOf.valid_iff, realConfig_sizesValid, realConfig_tablesValid, realConfig_ratesValid,
    realConfig_floorsValid]

end Record

/-! ## The decoder of instruction words (R98, R101) -/

section Decode

/-- A rational instruction word read as one over the real numbers: the word of `realInput`. -/
noncomputable def realWord : InstrWord → InstrWord ℝ
  | .command w => .command ⟨w.op, w.operands.map realOperand⟩
  | .wire b => .wire b
  | .datagram buf => .datagram buf

theorem realInput_word (w : InstrWord) : realInput (.word w) = .word (realWord w) := by cases w <;> rfl

@[simp] theorem realOperand_eq_bytes {o : Operand} {bs : List Byte} : realOperand o = .bytes bs ↔ o = .bytes bs := by
  cases o <;> simp [realOperand]

@[simp] theorem realOperand_eq_byte {o : Operand} {b : Byte} : realOperand o = .byte b ↔ o = .byte b := by
  cases o <;> simp [realOperand]

@[simp] theorem realOperand_eq_bit {o : Operand} {b : Bool} : realOperand o = .bit b ↔ o = .bit b := by
  cases o <;> simp [realOperand]

@[simp] theorem realOperand_eq_nums {o : Operand} {ys : List ℝ} : realOperand o = .nums ys ↔ ∃ xs, o = .nums xs ∧ reals xs = ys := by
  cases o <;> simp [realOperand]

theorem decodeEncode_real (f : WireFormat) (os : List Operand) :
    decodeEncode f (os.map realOperand) = (decodeEncode f os).map realInstr := by
  fun_cases decodeEncode f os with
  | case1 boardId frameSeq brightness bars scopeEn scope vuEn vu h => simp [decodeEncode, realOperand, realInstr, h]
  | case2 boardId frameSeq brightness bars scopeEn scope vuEn vu h => simp [decodeEncode, realOperand, h]
  | case3 _ h =>
    unfold decodeEncode
    split
    · next hos => exact (h _ _ _ _ _ _ _ _ (by simpa [List.map_eq_cons_iff] using hos)).elim
    · rfl

theorem decodePublish_real (os : List Operand) : decodePublish (os.map realOperand) = (decodePublish os).map realInstr := by
  fun_cases decodePublish os with
  | case1 bars scope vu => simp [decodePublish, realOperand, Function.comp_def, realInstr]
  | case2 _ h =>
    unfold decodePublish
    split
    · next hos => exact (h _ _ _ (by simpa [List.map_eq_cons_iff] using hos)).elim
    · rfl

theorem decodeOperands_real (f : WireFormat) (op : Nat) (os : List Operand) :
    decodeOperands f op (os.map realOperand) = (decodeOperands f op os).map realInstr := by
  fun_cases decodeOperands f op os with
  | case4 => exact decodeEncode_real f os
  | case7 => exact decodePublish_real os
  | case9 =>
    unfold decodeOperands
    split <;> simp_all [List.map_eq_cons_iff]
  | _ => rfl

theorem decodeCommand_real (f : WireFormat) (w : CmdWord) :
    decodeCommand f ⟨w.op, w.operands.map realOperand⟩ = (decodeCommand f w).map realInstr := by
  unfold decodeCommand
  simp only [decodeOperands_real]
  cases selectsOperation w.op <;> cases decodeOperands f w.op.toNat w.operands <;> rfl

theorem decodeWire_real (f : WireFormat) (p : DecPos) (b : Byte) : decodeWire f p b = realInstr (decodeWire f p b) := by
  cases p with
  | s0 | s1 =>
    simp only [decodeWire]
    split_ifs <;> rfl
  | s2Body => rfl
  | s2Check => rfl

theorem decodeDatagram_real (f : WireFormat) (buf : List Byte) : decodeDatagram f buf = realInstr (decodeDatagram f buf) := by
  simp only [decodeDatagram]
  split_ifs <;> rfl

theorem decode_real (f : WireFormat) (p : DecPos) (w : InstrWord) : decode f p (realWord w) = (decode f p w).map realInstr := by
  cases w with
  | command w => exact decodeCommand_real f w
  | wire b => exact congrArg Except.ok (decodeWire_real f p b)
  | datagram buf => exact congrArg Except.ok (decodeDatagram_real f buf)

end Decode

/-! ## The operations -/

section Operations

/-- An answer of the machine's block read as one of the block over the reals. -/
noncomputable def realAnswer (a : Answer Number) : Answer ℝ := (realBlock a.1, a.2)

variable (c : Config) (b : BlockState Number)

theorem realBlock_resetWith : realBlock (BlockState.resetWith c) = BlockState.resetWith (realConfig c) := by
  simp [realBlock, BlockState.resetWith, realSa, realLm, realConfig]

theorem realBlock_setFault (u : Analyzer) : realBlock (b.setFault u) = (realBlock b).setFault u := by cases u <;> rfl

theorem realBlock_faulted (u : Analyzer) : (realBlock b).faulted u = b.faulted u := by cases u <;> rfl

theorem realBlock_decPos : (realBlock b).decPos (realConfig c) = b.decPos c := rfl

theorem blockFits_real (blk : List Number) : blockFits (realConfig c) (reals blk) = blockFits c blk := by
  rw [blockFits, blockFits, reals_length]
  rfl

/-- The analyzer guard of R272 simulates when the operation behind it does. -/
theorem runAnalyzer_real (u : Analyzer) (ok : Bool) {run : BlockState Number → Answer Number} {run' : BlockState ℝ → Answer ℝ}
    (h : run' (realBlock b) = realAnswer (run b)) : (realBlock b).runAnalyzer u ok run' = realAnswer (b.runAnalyzer u ok run) := by
  have hu := realBlock_faulted b u
  rcases b.runAnalyzer_cases u ok run with ⟨hf, e⟩ | ⟨hf, rfl, e⟩ | ⟨hf, rfl, e⟩ <;> rw [e]
  · exact BlockState.runAnalyzer_refuses (hu.trans hf)
  · rw [BlockState.runAnalyzer_runs (hu.trans hf), h]
  · rw [BlockState.runAnalyzer_raises (hu.trans hf)]
    exact congrArg (·, _) (realBlock_setFault b u).symm

theorem saProcess_real {f : NumFns ℝ} {g : NumFns Number} (h : AgreesWith f g) (blk : List Number) :
    (realBlock b).saProcess f (realConfig c) (reals blk) = realAnswer (b.saProcess g c blk) := by
  rw [BlockState.saProcess, BlockState.saProcess, blockFits_real, ← reals_bandLevels c h]
  apply runAnalyzer_real
  simp only [BlockState.saProcessed, realAnswer, realBlock, realSa_saUpdate, ← saBars_realSa]

theorem lmProcess_real {f : NumFns ℝ} {g : NumFns Number} (h : AgreesWith f g) (left right : List Number) :
    (realBlock b).lmProcess f (realConfig c) (reals left) (reals right) = realAnswer (b.lmProcess g c left right) := by
  rw [BlockState.lmProcess, BlockState.lmProcess, blockFits_real, blockFits_real, ← cast_channelLevel c h, ← cast_channelLevel c h]
  apply runAnalyzer_real
  simp only [BlockState.lmProcessed, realAnswer, realBlock, realLm_lmUpdate, ← lmLevels_realLm]

theorem wtProcess_real (blk : List Number) : (realBlock b).wtProcess (realConfig c) (reals blk) = realAnswer (b.wtProcess c blk) := by
  rw [BlockState.wtProcess, BlockState.wtProcess, blockFits_real, ← reals_traceOf]
  apply runAnalyzer_real
  simp only [BlockState.wtProcessed, realAnswer, realBlock, cast_wtTracked]
  rw [map_reals _ fun y => by rw [← cast_wtTracked, positionOf_cast]]

theorem encEncode_real (boardId frameSeq brightness : Byte) (bars : List Byte) (scopeEn : Bool) (scope : List Byte) (vuEn : Bool)
    (vu : List Byte) :
    (realBlock b).encEncode (realConfig c) boardId frameSeq brightness bars scopeEn scope vuEn vu =
      realAnswer (b.encEncode c boardId frameSeq brightness bars scopeEn scope vuEn vu) := by
  rw [BlockState.encEncode_eq, BlockState.encEncode_eq]
  rfl

theorem fsPublish_real (bars scope : List Byte) (vu : Vector Byte 4) :
    (realBlock b).fsPublish (realConfig c) bars scope vu = realAnswer (b.fsPublish c bars scope vu) := by
  rw [BlockState.fsPublish_eq, BlockState.fsPublish_eq]
  rfl

/-- The guard of the byte-class rows (R98): a row's own effect and the byte fed alike. -/
theorem byteClass_real (selected : Bool) (x : Byte) (d : DecState) (fs : List DecodedFrame) :
    (realBlock b).byteClass (realConfig c) selected x d fs = realAnswer (b.byteClass c selected x d fs) := by
  cases selected <;> rfl

/-- An instruction read as one over the reals answers the instruction's answer read so; the functions matter to the two analyzers that
measure levels only. -/
theorem exec_real {f : NumFns ℝ} {g : NumFns Number} (i : Instr) (h : unitOf i = .sa ∨ unitOf i = .lm → AgreesWith f g) :
    (realBlock b).exec f (realConfig c) (realInstr i) = realAnswer (b.exec g c i) := by
  cases i with
  | saProcess blk => exact saProcess_real c b (h (.inl rfl)) blk
  | lmProcess left right => exact lmProcess_real c b (h (.inr rfl)) left right
  | wtProcess blk => exact wtProcess_real c b blk
  | encEncode => exact encEncode_real c b ..
  | fsPublish bars scope vu => exact fsPublish_real c b bars scope vu
  | decS0Sync0 | decS0Other | decS1Sync1 | decS1Sync0 | decS1Other | decS2Body | decS2Check => exact byteClass_real c b ..
  | decFeed | decValidate | fsTick | pktV116 | pktV112 | pktV59 => rfl

theorem step_real {f : NumFns ℝ} {g : NumFns Number} (h : AgreesWith f g) (input : Input) :
    BlockState.step f (realConfig c) (realInput input) (realBlock b) = realAnswer (BlockState.step g c input b) := by
  cases input with
  | reset => exact congrArg (·, _) (realBlock_resetWith c).symm
  | word w =>
    have hdecode : decode (realConfig c).wire ((realBlock b).decPos (realConfig c)) (realWord w) =
        (decode c.wire (b.decPos c) w).map realInstr := decode_real c.wire (b.decPos c) w
    simp only [realInput_word, BlockState.step, hdecode]
    cases decode c.wire (b.decPos c) w with
    | ok i => exact exec_real c b i fun _ => h
    | error e => rfl

end Operations

/-! ## The machine as the block at its own record and state -/

theorem exec_next {i : Instr} {s t : State} (h : exec i s = .next t) :
    s.toBlockState.exec s.cfg.fns s.cfg i = (t.toBlockState, t.result) := by
  rw [exec_eq] at h
  injection h with h
  rw [← h]
  rfl

theorem step_next {s t : State} {input : Input} {rest : List Input} (hinbox : s.inbox = input :: rest) (h : step s = .next t) :
    BlockState.step s.cfg.fns s.cfg input s.toBlockState = (t.toBlockState, t.result) := by
  obtain ⟨-, ⟨hempty, -⟩ | ⟨rest', hreset, rfl⟩ | ⟨w, rest', i, hword, hdecode, hexec⟩ | ⟨w, rest', e, hword, hdecode, rfl⟩⟩ :=
    step_cases h
  · rw [hinbox] at hempty
    cases hempty
  · obtain ⟨rfl, rfl⟩ := List.cons.inj (hinbox.symm.trans hreset)
    rfl
  · obtain ⟨rfl, rfl⟩ := List.cons.inj (hinbox.symm.trans hword)
    have hpos : s.toBlockState.decPos s.cfg = s.decPos := rfl
    simp only [BlockState.step, hpos, hdecode]
    exact exec_next (s := { s with inbox := rest }) hexec
  · obtain ⟨rfl, rfl⟩ := List.cons.inj (hinbox.symm.trans hword)
    have hpos : s.toBlockState.decPos s.cfg = s.decPos := rfl
    simp only [BlockState.step, hpos, hdecode]
    rfl

/-- Settles O60: the machine is the block over the rationals, which the block over the reals simulates. -/
theorem rationalRunsAreRealRuns : Obligations.RationalRunsAreRealRuns := by
  refine ⟨fun f s t input rest hf hinbox hstep => ?_, fun f i s t hf hexec => ?_, fun i s t hsa hlm hexec => ?_,
    fun c d sa => ?_, fun c l r lm => ?_, fun c f blk hf => ⟨reals_bandLevels c hf blk, cast_channelLevel c hf blk⟩,
    realConfig_valid⟩
  · rw [step_real s.cfg s.toBlockState hf, step_next hinbox hstep]
    rfl
  · rw [exec_real s.cfg s.toBlockState i fun _ => hf, exec_next hexec]
    rfl
  · have hnot : ¬ (unitOf i = .sa ∨ unitOf i = .lm) := not_or.mpr ⟨hsa, hlm⟩
    rw [exec_real (g := s.cfg.fns) s.cfg s.toBlockState i fun h => absurd h hnot, exec_next hexec]
    rfl
  · rw [← realSa_saUpdate, saBars_realSa]
    exact ⟨rfl, rfl⟩
  · rw [← realLm_lmUpdate, lmLevels_realLm]
    exact ⟨rfl, rfl⟩

end Sys2Proof.Machine
end

section
/-!
Each operation reads and writes one unit alone (R5, R41): the state of the block seen unit by unit, and every instruction as a function
of the state of `unitOf` it. The byte-class rows of R98 are the wire byte fed at their position (R225).
-/

namespace Sys2Proof.Machine

variable {K : Type}

/-! ## The block unit by unit -/

/-- What a unit holds of the table of R20; the encoder holds nothing (R41). -/
def UnitState (K : Type) : BlockUnit → Type
  | .sa => SaState K
  | .lm => LmState K
  | .wt => WtState K
  | .enc => Unit
  | .dec => DecState
  | .fs => FsState

/-- The state of the unit `u`. -/
def BlockState.unit (b : BlockState K) : (u : BlockUnit) → UnitState K u
  | .sa => b.sa
  | .lm => b.lm
  | .wt => b.wt
  | .enc => ()
  | .dec => b.dec
  | .fs => b.fs

/-- The block with the state of the unit `u` replaced. -/
def BlockState.setUnit (b : BlockState K) : (u : BlockUnit) → UnitState K u → BlockState K
  | .sa, x => { b with sa := x }
  | .lm, x => { b with lm := x }
  | .wt, x => { b with wt := x }
  | .enc, _ => b
  | .dec, x => { b with dec := x }
  | .fs, x => { b with fs := x }

theorem BlockState.unit_setUnit_of_ne (b : BlockState K) {u v : BlockUnit} (h : u ≠ v) (x : UnitState K u) :
    (b.setUnit u x).unit v = b.unit v := by
  cases u <;> cases v <;> trivial

theorem BlockState.setUnit_comm (b : BlockState K) {u v : BlockUnit} (h : u ≠ v) (x : UnitState K u) (y : UnitState K v) :
    (b.setUnit u x).setUnit v y = (b.setUnit v y).setUnit u x := by
  cases u <;> cases v <;> trivial

/-! ## The byte-class rows are the byte fed (R98, R225 to R230) -/

section Rows

variable {c : ConfigOf K} {b : BlockState K}

theorem BlockState.st_of_decPos_s0 (h : b.decPos c = .s0) : b.dec.st = .s0 := by
  unfold BlockState.decPos at h
  split at h <;> grind

theorem BlockState.st_of_decPos_s1 (h : b.decPos c = .s1) : b.dec.st = .s1 := by
  unfold BlockState.decPos at h
  split at h <;> grind

theorem BlockState.st_of_decPos_s2Body (h : b.decPos c = .s2Body) :
    b.dec.st = .s2 ∧ b.dec.cur < c.wire.bodyLen c.decVariant := by
  unfold BlockState.decPos at h
  split at h <;> grind

theorem BlockState.st_of_decPos_s2Check (h : b.decPos c = .s2Check) :
    b.dec.st = .s2 ∧ ¬ b.dec.cur < c.wire.bodyLen c.decVariant := by
  unfold BlockState.decPos at h
  split at h <;> grind

/-- A row whose own effect, where it is selected, is the decoder's on the byte is that byte fed. -/
theorem BlockState.byteClass_eq_feedByte {selected : Bool} {x : Byte} {d : DecState} {fs : List DecodedFrame}
    (h : selected = true → decFeed c.wire c.decVariant b.dec x = (d, fs)) : b.byteClass c selected x d fs = b.feedByte c x := by
  rcases b.byteClass_cases c selected x d fs with ⟨hsel, e⟩ | ⟨-, e⟩
  · rw [e, BlockState.feedByte, h hsel, BlockState.decoded]
  · exact e

theorem BlockState.decS0Sync0_eq : b.decS0Sync0 c = b.feedByte c c.wire.sync0 :=
  byteClass_eq_feedByte fun h => by
    rw [decFeed_s0 (st_of_decPos_s0 (beq_iff_eq.mp h)), if_pos rfl]

theorem BlockState.decS0Other_eq (x : Byte) : b.decS0Other c x = b.feedByte c x :=
  byteClass_eq_feedByte fun h => by
    simp only [Bool.and_eq_true, beq_iff_eq, bne_iff_ne] at h
    obtain ⟨hpos, hx⟩ := h
    rw [decFeed_s0 (st_of_decPos_s0 hpos), if_neg hx]

theorem BlockState.decS1Sync1_eq : b.decS1Sync1 c = b.feedByte c c.wire.sync1 :=
  byteClass_eq_feedByte fun h => by
    rw [decFeed_s1 (st_of_decPos_s1 (beq_iff_eq.mp h)), if_pos rfl]

theorem BlockState.decS1Sync0_eq : b.decS1Sync0 c = b.feedByte c c.wire.sync0 :=
  byteClass_eq_feedByte fun h => by
    simp only [Bool.and_eq_true, beq_iff_eq, bne_iff_ne] at h
    obtain ⟨hpos, hne⟩ := h
    rw [decFeed_s1 (st_of_decPos_s1 hpos), if_neg hne, if_pos rfl]

theorem BlockState.decS1Other_eq (x : Byte) : b.decS1Other c x = b.feedByte c x :=
  byteClass_eq_feedByte fun h => by
    simp only [Bool.and_eq_true, beq_iff_eq, bne_iff_ne] at h
    obtain ⟨⟨hpos, h0⟩, h1⟩ := h
    rw [decFeed_s1 (st_of_decPos_s1 hpos), if_neg h1, if_neg h0]

theorem BlockState.decS2Body_eq (x : Byte) : b.decS2Body c x = b.feedByte c x :=
  byteClass_eq_feedByte fun h => by
    obtain ⟨hst, hcur⟩ := st_of_decPos_s2Body (beq_iff_eq.mp h)
    exact decFeed_body hst hcur

theorem BlockState.decS2Check_eq (x : Byte) : b.decS2Check c x = b.feedByte c x :=
  byteClass_eq_feedByte fun h => by
    obtain ⟨hst, hcur⟩ := st_of_decPos_s2Check (beq_iff_eq.mp h)
    exact decFeed_check hst hcur

end Rows

/-! ## Every instruction as an effect on its own unit -/

section Effect

variable [Field K] [LinearOrder K] [FloorRing K]

/-- The effect of a datagram on the decoder: none; the receiver answers (R232). -/
def validateEffect (buf : List Byte) (c : ConfigOf K) (d : DecState) : DecState × Response :=
  (d, .validated (validatePacket c.wire c.decVariant buf))

/-- The effect of an instruction on the state of its own unit, and its result. -/
def unitEffect (f : NumFns K) (c : ConfigOf K) : (i : Instr K) → UnitState K (unitOf i) → UnitState K (unitOf i) × Response
  | .saProcess blk => saEffect f blk c
  | .lmProcess left right => lmEffect f left right c
  | .wtProcess blk => wtEffect blk c
  | .encEncode boardId frameSeq brightness bars scopeEn scope vuEn vu =>
    fun e => (e, encodeAnswer boardId frameSeq brightness bars scopeEn scope vuEn vu c)
  | .decFeed x => feedEffect x c
  | .decValidate buf => validateEffect buf c
  | .fsPublish bars scope vu => publishEffect bars scope vu c
  | .fsTick brightness => tickEffect brightness
  | .pktV116 boardId frameSeq brightness bars scope vu checksum =>
    validateEffect (packetOf c.wire (bodyOf .v116 boardId frameSeq brightness bars scope vu) checksum) c
  | .pktV112 boardId frameSeq brightness bars scope checksum =>
    validateEffect (packetOf c.wire (bodyOf .v112 boardId frameSeq brightness bars scope []) checksum) c
  | .pktV59 boardId frameSeq brightness bars checksum =>
    validateEffect (packetOf c.wire (bodyOf .v59 boardId frameSeq brightness bars [] []) checksum) c
  | .decS0Sync0 => feedEffect c.wire.sync0 c
  | .decS0Other x => feedEffect x c
  | .decS1Sync1 => feedEffect c.wire.sync1 c
  | .decS1Sync0 => feedEffect c.wire.sync0 c
  | .decS1Other x => feedEffect x c
  | .decS2Body x => feedEffect x c
  | .decS2Check x => feedEffect x c

variable (f : NumFns K) (c : ConfigOf K) (i : Instr K) (b : BlockState K)

/-- An operation of the block reads its own unit, writes it, and nothing else (R41). -/
theorem BlockState.exec_eq_unitEffect :
    b.exec f c i =
      (b.setUnit (unitOf i) (unitEffect f c i (b.unit (unitOf i))).1, (unitEffect f c i (b.unit (unitOf i))).2) := by
  cases i with
  | saProcess blk => exact b.saProcess_eq f c blk
  | lmProcess left right => exact b.lmProcess_eq f c left right
  | wtProcess blk => exact b.wtProcess_eq c blk
  | encEncode => exact b.encEncode_eq c ..
  | fsPublish bars scope vu => exact b.fsPublish_eq c bars scope vu
  | decFeed | decValidate | fsTick | pktV116 | pktV112 | pktV59 => rfl
  | decS0Sync0 => exact decS0Sync0_eq
  | decS0Other x => exact decS0Other_eq x
  | decS1Sync1 => exact decS1Sync1_eq
  | decS1Sync0 => exact decS1Sync0_eq
  | decS1Other x => exact decS1Other_eq x
  | decS2Body x => exact decS2Body_eq x
  | decS2Check x => exact decS2Check_eq x

theorem BlockState.exec_unit_of_ne {u : BlockUnit} (h : unitOf i ≠ u) : (b.exec f c i).1.unit u = b.unit u := by
  rw [exec_eq_unitEffect, unit_setUnit_of_ne b h]

end Effect

end Sys2Proof.Machine
end

section
/-!
A step of the machine is the step of the block with the machine's record as its parameter (R37, R74, R79); the reset event among the
steps (R300) and the reset values (R40).
-/

namespace Sys2Proof.Machine

theorem stepInput_eq (input : Input) (s : State) :
    stepInput input s = .next (s.answer (BlockState.step s.cfg.fns s.cfg input s.toBlockState)) := by
  cases input with
  | reset => rfl
  | word w =>
    have hpos : s.toBlockState.decPos s.cfg = s.decPos := rfl
    simp only [stepInput, BlockState.step, hpos]
    cases decode s.cfg.wire s.decPos w with
    | ok i => exact exec_eq i s
    | error e => rfl

theorem step_of_pending {s : State} {input : Input} {rest : List Input} (hvalid : s.cfg.Valid) (hinbox : s.inbox = input :: rest) :
    step s = .next (State.answer { s with inbox := rest } (BlockState.step s.cfg.fns s.cfg input s.toBlockState)) := by
  rw [step_of_valid hvalid, State.fetch_cons hinbox]
  exact stepInput_eq ..

/-- A step that answers: the record is valid, and it takes no input and changes nothing, or takes one and is the block's step. -/
theorem step_next_cases {s t : State} (h : step s = .next t) :
    s.cfg.Valid ∧ ((s.inbox = [] ∧ t = s) ∨ ∃ input rest, s.inbox = input :: rest ∧
      t = State.answer { s with inbox := rest } (BlockState.step s.cfg.fns s.cfg input s.toBlockState)) := by
  obtain ⟨hvalid, -⟩ := step_cases h
  refine ⟨hvalid, ?_⟩
  cases hinbox : s.inbox with
  | nil =>
    rw [step_of_valid hvalid, State.fetch_empty hinbox] at h
    injection h with h
    exact .inl ⟨rfl, h.symm⟩
  | cons input rest =>
    rw [step_of_pending hvalid hinbox] at h
    injection h with h
    exact .inr ⟨input, rest, rfl, h.symm⟩

/-- Settles O13: a step answers with the record it was given, and step and `exec` are the block's operations. -/
theorem stepKeepsTheConfiguration : Obligations.StepKeepsTheConfiguration := by
  refine ⟨fun s t h => ?_, fun s input rest hvalid hinbox => step_of_pending hvalid hinbox, exec_eq⟩
  obtain ⟨-, ⟨-, rfl⟩ | ⟨input, rest, -, rfl⟩⟩ := step_next_cases h
  · rfl
  · rfl

/-- Settles O10: the reset event's step is the block's, which answers the reset state. -/
theorem resetEventRestoresResetValues : Obligations.ResetEventRestoresResetValues := by
  intro s rest hvalid hinbox
  refine ⟨_, step_of_pending hvalid hinbox, ?_⟩
  simp [BlockState.step]

/-- Settles O9: every value is read off the reset state, and the lengths off the reference record. -/
theorem resetValues : Obligations.ResetValues := by
  refine ⟨fun c => ?_, rfl, rfl, rfl, rfl, ?_, ?_, ?_, ?_, ?_, rfl, rfl, rfl, rfl⟩
  · simp
  · exact List.length_replicate
  · exact List.length_replicate
  · exact List.length_replicate
  · exact List.length_replicate
  · exact ⟨rfl, rfl, rfl, rfl, rfl, rfl, rfl, rfl⟩

end Sys2Proof.Machine
end

section
/-!
Ownership and order (R41, R74, R77): what an instruction leaves unchanged, that two instructions of different units commute, and that a
fault flag is cleared by the reset event alone (R36, R274, R300).
-/

namespace Sys2Proof.Machine

/-! ## What an instruction leaves unchanged -/

theorem publishEffect_seq {K : Type} (bars scope : List Byte) (vu : Vector Byte 4) (c : ConfigOf K) (fs : FsState) :
    (publishEffect bars scope vu c fs).1.seq = fs.seq := by
  unfold publishEffect
  split <;> rfl

section Frame

variable {K : Type} [Field K] [LinearOrder K] [FloorRing K] (f : NumFns K) (c : ConfigOf K) (i : Instr K) (b : BlockState K)

/-- Only fed bytes write the decoder: the wire bytes of R98 and `DEC.FEED` (R225, R232). -/
theorem BlockState.exec_dec_of_not_fed (hwire : ∀ x, encode c.wire i ≠ .wire x) (hfeed : ∀ x, i ≠ .decFeed x) :
    (b.exec f c i).1.dec = b.dec := by
  rw [exec_eq_unitEffect]
  cases i with
  | decFeed x => exact absurd rfl (hfeed x)
  | decS0Sync0 | decS0Other | decS1Sync1 | decS1Sync0 | decS1Other | decS2Body | decS2Check => exact absurd rfl (hwire _)
  | saProcess | lmProcess | wtProcess | encEncode | decValidate | fsPublish | fsTick | pktV116 | pktV112 | pktV59 => rfl

/-- Only a tick counts (R31, R252). -/
theorem BlockState.exec_seq_of_not_tick (h : ∀ brightness, i ≠ .fsTick brightness) : (b.exec f c i).1.fs.seq = b.fs.seq := by
  rw [exec_eq_unitEffect]
  cases i with
  | fsTick brightness => exact absurd rfl (h brightness)
  | fsPublish bars scope vu => exact publishEffect_seq bars scope vu c b.fs
  | _ => rfl

/-- Only a publish writes the arrays of the slot (R30, R251). -/
theorem BlockState.exec_arrays_of_not_publish (h : ∀ bars scope vu, i ≠ .fsPublish bars scope vu) :
    (b.exec f c i).1.fs.bars = b.fs.bars ∧ (b.exec f c i).1.fs.scope = b.fs.scope ∧ (b.exec f c i).1.fs.vu = b.fs.vu := by
  rw [exec_eq_unitEffect]
  cases i with
  | fsPublish bars scope vu => exact absurd rfl (h bars scope vu)
  | _ => exact ⟨rfl, rfl, rfl⟩

end Frame

/-- Settles O19: an instruction of the machine is the block's, which writes its own unit alone. -/
theorem operationsWriteOnlyTheirUnit : Obligations.OperationsWriteOnlyTheirUnit := by
  intro i s t h
  rw [exec_eq] at h
  injection h with h
  subst h
  have hframe {u : BlockUnit} (hu : unitOf i ≠ u) := s.toBlockState.exec_unit_of_ne s.cfg.fns s.cfg i hu
  exact ⟨rfl, rfl, hframe (u := .sa), hframe (u := .lm), hframe (u := .wt), hframe (u := .dec), hframe (u := .fs),
    BlockState.exec_dec_of_not_fed _ _ _ _, BlockState.exec_seq_of_not_tick _ _ _ _, BlockState.exec_arrays_of_not_publish _ _ _ _⟩

/-! ## Order -/

/-- Settles O20: each of the two reads the same state of its own unit in either order, and their writes commute. -/
theorem differentUnitsCommute : Obligations.DifferentUnitsCommute := by
  intro i j s si sij sj sji hne hi hij hj hji
  simp only [exec_eq, BlockState.exec_eq_unitEffect] at hi hij hj hji
  injection hi with hi
  subst hi
  injection hj with hj
  subst hj
  injection hij with hij
  injection hji with hji
  subst hij hji
  have hi := BlockState.unit_setUnit_of_ne s.toBlockState hne
  have hj := BlockState.unit_setUnit_of_ne s.toBlockState hne.symm
  simp only [State.answer, hi, hj, BlockState.setUnit_comm _ hne, and_self]

/-! ## Fault flags -/

section Faults

variable {K : Type}

/-- An analyzer as one of the units. -/
def Analyzer.unit : Analyzer → BlockUnit
  | .sa => .sa
  | .lm => .lm
  | .wt => .wt

theorem BlockState.faulted_congr {b b' : BlockState K} {u : Analyzer} (h : b'.unit u.unit = b.unit u.unit) :
    b'.faulted u = b.faulted u := by
  cases u with
  | sa => exact congrArg SaState.fault h
  | lm => exact congrArg LmState.fault h
  | wt => exact congrArg WtState.fault h

theorem BlockState.resetWith_faulted [Field K] (c : ConfigOf K) (u : Analyzer) : (BlockState.resetWith c).faulted u = false := by
  cases u <;> rfl

variable [Field K] [LinearOrder K] [FloorRing K] (f : NumFns K) (c : ConfigOf K)

theorem Analyzer.unit_injective : Function.Injective Analyzer.unit := by
  intro u v h
  cases u <;> cases v <;> trivial

/-- An instruction of a faulted unit is refused and writes nothing (R272, R274). -/
theorem BlockState.exec_of_faulted {b : BlockState K} {u : Analyzer} {i : Instr K} (hi : unitOf i = u.unit) (h : b.faulted u = true) :
    b.exec f c i = b.reply (.refused (.unitFaulted u)) := by
  cases i with
  | saProcess blk =>
    obtain rfl := Analyzer.unit_injective (a₁ := .sa) hi
    exact runAnalyzer_refuses h
  | lmProcess left right =>
    obtain rfl := Analyzer.unit_injective (a₁ := .lm) hi
    exact runAnalyzer_refuses h
  | wtProcess blk =>
    obtain rfl := Analyzer.unit_injective (a₁ := .wt) hi
    exact runAnalyzer_refuses h
  | _ => cases u <;> cases hi

/-- An instruction keeps a set flag: its own unit's because it is refused, another's because it does not write it. -/
theorem BlockState.exec_keeps_fault {b : BlockState K} {u : Analyzer} (i : Instr K) (h : b.faulted u = true) :
    (b.exec f c i).1.faulted u = true := by
  by_cases hi : unitOf i = u.unit
  · rw [exec_of_faulted f c hi h]
    exact h
  · rw [faulted_congr (exec_unit_of_ne f c i b hi), h]

theorem BlockState.step_word_keeps_fault {b : BlockState K} {u : Analyzer} (w : InstrWord K) (h : b.faulted u = true) :
    (b.step f c (.word w)).1.faulted u = true := by
  simp only [BlockState.step]
  cases decode c.wire (b.decPos c) w with
  | ok i => exact exec_keeps_fault f c i h
  | error e => exact h

end Faults

/-- Settles O17: a step on a word keeps the flag, as does a step without an input; the reset event clears it. -/
theorem faultFlagClearedOnlyByReset : Obligations.FaultFlagClearedOnlyByReset := by
  intro s t u h hfault
  obtain ⟨-, ⟨hempty, rfl⟩ | ⟨input, rest, hinbox, rfl⟩⟩ := step_next_cases h
  · simp [hfault, hempty]
  · cases input with
    | reset => simp [hinbox, BlockState.step, BlockState.resetWith_faulted]
    | word w => simp [hinbox, BlockState.step_word_keeps_fault _ _ w hfault]

end Sys2Proof.Machine
end

section
/-!
The invariant of R21 to R30, unit by unit: each effect keeps its own unit's range, so every operation and every step keeps the block's
(O12), which every reset state meets (O11).
-/

namespace Sys2Proof.Machine

variable {K : Type}

/-! ## The decoder and the slot -/

/-- A byte below `BODY_LEN` advances the cursor inside the buffer, and the completing byte leaves S2 (R28, R29, R225). -/
theorem decFeed_inv {c : ConfigOf K} {d : DecState} (h : d.Inv c) (x : Byte) : (decFeed c.wire c.decVariant d x).1.Inv c := by
  have ⟨hbuf, hcur, hs2⟩ := h
  have happend : (d.append x).buf.length = c.wire.bodyLen c.decVariant + 1 := by rw [DecState.append_buf, List.length_set, hbuf]
  cases hst : d.st with
  | s0 =>
    rw [decFeed_s0 hst]
    dsimp only
    split_ifs
    · exact ⟨hbuf, hcur, nofun⟩
    · exact h
  | s1 =>
    rw [decFeed_s1 hst]
    dsimp only
    split_ifs
    · exact ⟨hbuf, Nat.zero_le _, fun _ => Nat.zero_le _⟩
    · exact h
    · exact ⟨hbuf, hcur, nofun⟩
  | s2 =>
    by_cases hbody : d.cur < c.wire.bodyLen c.decVariant
    · rw [decFeed_body hst hbody]
      exact ⟨happend, Nat.succ_le_succ (hs2 hst), fun _ => hbody⟩
    · rw [decFeed_check hst hbody]
      exact ⟨happend, Nat.succ_le_succ (hs2 hst), nofun⟩

/-- The slot takes arrays of its own lengths only (R251). -/
theorem publishEffect_inv {c : ConfigOf K} {fs : FsState} (h : fs.Inv c) (bars scope : List Byte) (vu : Vector Byte 4) :
    (publishEffect bars scope vu c fs).1.Inv c := by
  unfold publishEffect
  split
  next hfit => exact slotArraysFit_eq_true.mp hfit
  next => exact h

variable [Field K] [LinearOrder K]

/-! ## The invariant unit by unit -/

/-- The range of a unit's state: its clause of `BlockState.Inv`. -/
def UnitState.Inv (c : ConfigOf K) : (u : BlockUnit) → UnitState K u → Prop
  | .sa, sa => SaState.Inv c sa
  | .lm, lm => LmState.Inv c lm
  | .wt, wt => WtState.Inv c wt
  | .enc, _ => True
  | .dec, d => DecState.Inv c d
  | .fs, fs => FsState.Inv c fs

theorem BlockState.Inv.unit {c : ConfigOf K} {b : BlockState K} (h : b.Inv c) (u : BlockUnit) : UnitState.Inv c u (b.unit u) := by
  obtain ⟨hsa, hlm, hwt, hdec, hfs⟩ := h
  cases u with
  | sa => exact hsa
  | lm => exact hlm
  | wt => exact hwt
  | enc => trivial
  | dec => exact hdec
  | fs => exact hfs

theorem BlockState.Inv.setUnit {c : ConfigOf K} {b : BlockState K} (h : b.Inv c) {u : BlockUnit} {x : UnitState K u}
    (hx : UnitState.Inv c u x) : (b.setUnit u x).Inv c := by
  have ⟨hsa, hlm, hwt, hdec, hfs⟩ := h
  cases u with
  | sa => exact ⟨hx, hlm, hwt, hdec, hfs⟩
  | lm => exact ⟨hsa, hx, hwt, hdec, hfs⟩
  | wt => exact ⟨hsa, hlm, hx, hdec, hfs⟩
  | enc => exact h
  | dec => exact ⟨hsa, hlm, hwt, hx, hfs⟩
  | fs => exact ⟨hsa, hlm, hwt, hdec, hx⟩

/-! ## The analyzers -/

theorem wtEffect_inv [FloorRing K] {c : ConfigOf K} {wt : WtState K} (h : wt.Inv c) (blk : List K) : (wtEffect blk c wt).1.Inv c := by
  unfold wtEffect
  split
  · exact h
  · exact le_max_right _ _
  · exact h

variable [IsStrictOrderedRing K]

/-- Smoothing stays in a range that holds the value and its target (R131). -/
theorem smooth_mem {cur target attack decay lo hi : K} (hattack : ConfigOf.Rate attack) (hdecay : ConfigOf.Rate decay)
    (hcur : lo ≤ cur ∧ cur ≤ hi) (htarget : lo ≤ target ∧ target ≤ hi) :
    lo ≤ smooth cur target attack decay ∧ smooth cur target attack decay ≤ hi := by
  have hmem {r : K} (hr : ConfigOf.Rate r) : cur + r * (target - cur) ∈ Set.Icc lo hi :=
    (convex_Icc lo hi).add_smul_sub_mem hcur htarget ⟨hr.1.le, hr.2⟩
  rw [smooth]
  split_ifs
  · exact hmem hattack
  · exact hmem hdecay

/-- A level in the window, scaled to `n` steps (R156, R174). -/
theorem norm01_mul_mem (d : K) (w : Window K) (n : Nat) : 0 ≤ norm01 d w * n ∧ norm01 d w * n ≤ n := by
  obtain ⟨h0, h1⟩ := norm01_mem d w
  exact ⟨mul_nonneg h0 n.cast_nonneg, mul_le_of_le_one_left n.cast_nonneg h1⟩

/-- The bars move toward targets in `[0, MAX_HEIGHT]`, one per band (R155 to R157). -/
theorem saUpdate_inv {c : ConfigOf K} (hc : c.Valid) {sa : SaState K} (h : sa.Inv c) {d : List K} (hd : d.length = c.nBands) :
    (saUpdate c d sa).Inv c := by
  obtain ⟨-, hlen, hrange⟩ := h
  obtain ⟨-, -, ⟨-, -, -, hattack, hdecay, -⟩, -⟩ := c.valid_iff.mp hc
  refine ⟨dbFloor_le_trackDb .., ?_, fun x hx => ?_⟩
  · rw [saUpdate, List.length_zipWith, hlen, hd, min_self]
  · obtain ⟨i, hi, rfl⟩ := List.getElem_of_mem hx
    simp only [saUpdate, List.getElem_zipWith]
    exact smooth_mem hattack hdecay (hrange _ (List.getElem_mem _)) (norm01_mul_mem ..)

/-- A peak moves up toward a target in `[0, VU_MAX]`, or is above the target and drops once (R176). -/
theorem lmPeakNext_inv {c : ConfigOf K} (hc : c.Valid) {peak t : K} (h : PeakInv c peak) (ht : RmsInv c t) :
    PeakInv c (lmPeakNext c peak t) := by
  obtain ⟨hlow, hhigh⟩ := h
  obtain ⟨ht0, ht1⟩ := ht
  obtain ⟨-, -, ⟨-, -, -, -, -, -, -, -, -, -, ⟨ha0, ha1⟩, ⟨hdrop, -⟩, -⟩, -⟩ := c.valid_iff.mp hc
  have hstep : 0 ≤ c.lmPeakDrop * c.vuMax := mul_nonneg hdrop.le (Nat.cast_nonneg _)
  rw [lmPeakNext]
  split_ifs with htp
  · have hup : peak ≤ peak + c.lmPeakAttack * (t - peak) := le_add_of_nonneg_right (mul_nonneg ha0.le (sub_nonneg.mpr htp))
    have htop : peak + c.lmPeakAttack * (t - peak) ≤ t := by
      linarith [mul_le_of_le_one_left (sub_nonneg.mpr htp) ha1]
    refine ⟨?_, htop.trans ht1⟩
    rcases hlow with hlow | rfl
    · exact .inl (hlow.trans_le hup)
    · rcases hup.eq_or_lt with hzero | hpos
      · exact .inr hzero.symm
      · exact .inl (by linarith)
  · exact ⟨.inl (by linarith), by linarith⟩

/-- Both channels move toward targets in `[0, VU_MAX]` (R173 to R176). -/
theorem lmUpdate_inv {c : ConfigOf K} (hc : c.Valid) {lm : LmState K} (h : lm.Inv c) (dLeft dRight : K) :
    (lmUpdate c dLeft dRight lm).Inv c := by
  obtain ⟨-, hrmsL, hrmsR, hpeakL, hpeakR⟩ := h
  obtain ⟨-, -, ⟨-, -, -, -, -, -, -, -, hattack, hdecay, -⟩, -⟩ := c.valid_iff.mp hc
  have htarget (w : Window K) (d : K) : RmsInv c (lmTarget c w d) := norm01_mul_mem d w c.vuMax
  exact ⟨dbFloor_le_trackDb .., smooth_mem hattack hdecay hrmsL (htarget ..), smooth_mem hattack hdecay hrmsR (htarget ..),
    lmPeakNext_inv hc hpeakL (htarget ..), lmPeakNext_inv hc hpeakR (htarget ..)⟩

theorem saEffect_inv [FloorRing K] (f : NumFns K) {c : ConfigOf K} (hc : c.Valid) {sa : SaState K} (h : sa.Inv c) (blk : List K) :
    (saEffect f blk c sa).1.Inv c := by
  have hlevels : (bandLevels f c blk).length = c.nBands := by simp [bandLevels, bandMeans]
  unfold saEffect
  split
  · exact h
  · exact saUpdate_inv hc h hlevels
  · exact h

theorem lmEffect_inv [FloorRing K] (f : NumFns K) {c : ConfigOf K} (hc : c.Valid) {lm : LmState K} (h : lm.Inv c) (left right : List K) :
    (lmEffect f left right c lm).1.Inv c := by
  unfold lmEffect
  split
  · exact h
  · exact lmUpdate_inv hc h ..
  · exact h

/-! ## Reset -/

/-- Every range of R21 to R30 holds the value of R40. -/
theorem BlockState.resetWith_inv (c : ConfigOf K) : (BlockState.resetWith c).Inv c := by
  have hbars : ∀ x ∈ List.replicate c.nBands (0 : K), 0 ≤ x ∧ x ≤ (c.maxHeight : K) := fun x hx => by
    rw [List.eq_of_mem_replicate hx]
    exact ⟨le_rfl, Nat.cast_nonneg _⟩
  have hrms : RmsInv c (0 : K) := ⟨le_rfl, Nat.cast_nonneg _⟩
  have hpeak : PeakInv c (0 : K) := ⟨.inr rfl, Nat.cast_nonneg _⟩
  exact ⟨⟨le_rfl, List.length_replicate, hbars⟩, ⟨le_rfl, hrms, hrms, hpeak, hpeak⟩, le_rfl,
    ⟨List.length_replicate, Nat.zero_le _, nofun⟩, List.length_replicate, List.length_replicate⟩

/-! ## Operations and steps -/

variable [FloorRing K] (f : NumFns K) {c : ConfigOf K}

theorem unitEffect_inv (hc : c.Valid) (i : Instr K) {x : UnitState K (unitOf i)} (h : UnitState.Inv c (unitOf i) x) :
    UnitState.Inv c (unitOf i) (unitEffect f c i x).1 := by
  cases i with
  | saProcess blk => exact saEffect_inv f hc h blk
  | lmProcess left right => exact lmEffect_inv f hc h left right
  | wtProcess blk => exact wtEffect_inv h blk
  | fsPublish bars scope vu => exact publishEffect_inv h bars scope vu
  | decFeed | decS0Sync0 | decS0Other | decS1Sync1 | decS1Sync0 | decS1Other | decS2Body | decS2Check => exact decFeed_inv h _
  | encEncode | decValidate | fsTick | pktV116 | pktV112 | pktV59 => exact h

theorem BlockState.exec_inv (hc : c.Valid) {b : BlockState K} (h : b.Inv c) (i : Instr K) : (b.exec f c i).1.Inv c := by
  rw [exec_eq_unitEffect]
  exact h.setUnit (unitEffect_inv f hc i (h.unit _))

theorem BlockState.step_inv (hc : c.Valid) {b : BlockState K} (h : b.Inv c) (input : Input K) : (b.step f c input).1.Inv c := by
  cases input with
  | reset => exact resetWith_inv c
  | word w =>
    simp only [BlockState.step]
    cases decode c.wire (b.decPos c) w with
    | ok i => exact exec_inv f hc h i
    | error e => exact h

end Sys2Proof.Machine

namespace Sys2Proof

/-- The record of the defaults of R7 meets R302 with any functions: its window table has `NB` entries whatever they are. -/
theorem ConfigOf.reference_valid {K : Type} [Field K] [LinearOrder K] [IsStrictOrderedRing K] (f : NumFns K) :
    (ConfigOf.reference f).Valid := by
  rw [ConfigOf.valid_iff]
  refine ⟨?_, ⟨?_, rfl, ?_, rfl⟩, ?_, ?_⟩
  · simp [ConfigOf.SizesValid, ConfigOf.reference, Config.referenceNb]
  · simp [ConfigOf.reference, Machine.hannWindow]
  · simp [ConfigOf.reference, Config.referenceNb]
  · norm_num [ConfigOf.RatesValid, ConfigOf.Rate, ConfigOf.reference]
  · norm_num [ConfigOf.FloorsValid, ConfigOf.reference]

end Sys2Proof

namespace Sys2Proof.Machine

/-- Settles O12: the block's step keeps the invariant over any numbers, and the machine's step is the block's with an unchanged record. -/
theorem stepKeepsTheInvariant : Obligations.StepKeepsTheInvariant := by
  refine ⟨fun s t h hstep => ?_, fun K _ _ _ _ f c input b hc h => BlockState.step_inv f hc h input,
    fun c input b hc h => BlockState.step_inv NumFns.exact hc h input⟩
  obtain ⟨hvalid, ⟨-, rfl⟩ | ⟨input, rest, -, rfl⟩⟩ := step_next_cases hstep
  · exact h
  · obtain ⟨-, hinv⟩ := h
    exact ⟨hvalid, BlockState.step_inv s.cfg.fns hvalid hinv input⟩

/-- Settles O11: the reset state is in range under every record, and the reference record is valid over any numbers. -/
theorem resetMeetsTheInvariant : Obligations.ResetMeetsTheInvariant :=
  ⟨fun _ _ _ _ c _ => BlockState.resetWith_inv c, fun c hc => ⟨hc, BlockState.resetWith_inv c⟩,
    ⟨ConfigOf.reference_valid _, BlockState.resetWith_inv _⟩, ConfigOf.reference_valid _⟩

end Sys2Proof.Machine
end

section
/-!
Totality of the step (R75): under a valid record every step answers a next state, with an input pending or none.
-/

namespace Sys2Proof.Machine

/-- The block executes nothing by itself (R301). -/
theorem step_of_inbox_empty {s : State} (hvalid : s.cfg.Valid) (hinbox : s.inbox = []) : step s = .next s := by
  rw [step_of_valid hvalid, State.fetch_empty hinbox]

/-- Settles O7: with no input pending the state stays, and a pending one is answered by the block's step, which is a function. -/
theorem everyStepCompletes : Obligations.EveryStepCompletes := by
  intro s hvalid
  cases hinbox : s.inbox with
  | nil => exact ⟨s, step_of_inbox_empty hvalid hinbox⟩
  | cons input rest => exact ⟨_, step_of_pending hvalid hinbox⟩

end Sys2Proof.Machine
end

section
/-!
The slices of a buffer and of a packet (R62, R91 to R93): a packet's fields are read off at their offsets, and a buffer with the sync
marker and the length of a format is the packet of the fields read off it.
-/

namespace Sys2Proof

/-! ## Slices of a buffer -/

theorem bytesAt_zero (off : Nat) (buf : List Byte) : bytesAt 0 off buf = [] := by simp [bytesAt]

theorem bytesAt_succ {off : Nat} {buf : List Byte} (n : Nat) (h : off < buf.length) :
    bytesAt (n + 1) off buf = buf.getD off 0 :: bytesAt n (off + 1) buf := by
  rw [bytesAt, List.drop_eq_getElem_cons h, List.take_succ_cons, List.getD_eq_getElem _ _ h, bytesAt]

/-- Two slices side by side are one. -/
theorem bytesAt_append_bytesAt {m n off mid : Nat} {buf : List Byte} (h : mid = off + m) :
    bytesAt m off buf ++ bytesAt n mid buf = bytesAt (m + n) off buf := by
  rw [h, bytesAt, bytesAt, bytesAt, List.take_add, List.drop_drop]

/-- A slice and, where it is there, an optional section behind it (R211). -/
theorem bytesAt_append_section {present : Bool} {m n off mid : Nat} {buf : List Byte} (h : present = true → mid = off + m) :
    bytesAt m off buf ++ (if present then bytesAt n mid buf else []) = bytesAt (m + if present then n else 0) off buf := by
  cases present with
  | false => exact List.append_nil _
  | true => exact bytesAt_append_bytesAt (h rfl)

theorem bytesAt_length_zero (buf : List Byte) : bytesAt buf.length 0 buf = buf := by simp [bytesAt]

theorem hasSync_iff {f : WireFormat} {buf : List Byte} :
    hasSync f buf = true ↔ buf.getD 0 0 = f.sync0 ∧ buf.getD 1 0 = f.sync1 := by
  simp only [hasSync, Bool.and_eq_true, beq_iff_eq]

/-! ## A buffer as the packet of its slices -/

theorem Variant.hasScope_of_hasVu {v : Variant} (h : v.hasVu = true) : v.hasScope = true := by
  rw [Variant.hasVu_iff.mp h]
  rfl

section Slices

variable {f : WireFormat} {v : Variant} {buf : List Byte}

/-- The sync marker, the body and the checksum make up a buffer of a packet's length. -/
theorem packetOf_slices (hsync : hasSync f buf = true) (hlen : buf.length = f.pktLen v) :
    packetOf f (bytesAt (f.bodyLen v) 2 buf) (buf.getD (f.pktLen v - 1) 0) = buf := by
  obtain ⟨h0, h1⟩ := hasSync_iff.mp hsync
  have hpkt : f.pktLen v = 2 + f.bodyLen v + 1 := by rw [WireFormat.pktLen]; omega
  have hmarker : bytesAt 2 0 buf = [f.sync0, f.sync1] := by
    rw [bytesAt_succ 1 (by omega), bytesAt_succ 0 (by omega), bytesAt_zero, h0, h1]
  have hcheck : bytesAt 1 (2 + f.bodyLen v) buf = [buf.getD (f.pktLen v - 1) 0] := by
    rw [bytesAt_succ 0 (by omega), bytesAt_zero, hpkt, Nat.add_sub_cancel]
  calc packetOf f (bytesAt (f.bodyLen v) 2 buf) (buf.getD (f.pktLen v - 1) 0)
      = bytesAt 2 0 buf ++ bytesAt (f.bodyLen v) 2 buf ++ bytesAt 1 (2 + f.bodyLen v) buf := by
        rw [hmarker, hcheck, packetOf]
    _ = bytesAt (2 + f.bodyLen v + 1) 0 buf := by rw [bytesAt_append_bytesAt rfl, bytesAt_append_bytesAt (by omega)]
    _ = buf := by rw [← hpkt, ← hlen, bytesAt_length_zero]

/-- The header and the arrays of a variant make up the body of a buffer. -/
theorem bodyOf_slices (h : 5 ≤ buf.length) :
    bodyOf v (buf.getD 2 0) (buf.getD 3 0) (buf.getD 4 0) (bytesAt f.barsPerPkt 5 buf)
      (bytesAt f.scopePerPkt (5 + f.barsPerPkt) buf) (bytesAt f.vuPerPkt (5 + f.barsPerPkt + f.scopePerPkt) buf) =
      bytesAt (f.bodyLen v) 2 buf := by
  have hheader : [buf.getD 2 0, buf.getD 3 0, buf.getD 4 0] = bytesAt 3 2 buf := by
    rw [bytesAt_succ 2 (by omega), bytesAt_succ 1 (by omega), bytesAt_succ 0 (by omega), bytesAt_zero]
  have hbars : bytesAt 3 2 buf ++ bytesAt f.barsPerPkt 5 buf = bytesAt (3 + f.barsPerPkt) 2 buf := bytesAt_append_bytesAt rfl
  have hscope : bytesAt (3 + f.barsPerPkt) 2 buf ++ (if v.hasScope then bytesAt f.scopePerPkt (5 + f.barsPerPkt) buf else []) =
      bytesAt (3 + f.barsPerPkt + if v.hasScope then f.scopePerPkt else 0) 2 buf :=
    bytesAt_append_section fun _ => by omega
  have hvu : bytesAt (3 + f.barsPerPkt + if v.hasScope then f.scopePerPkt else 0) 2 buf ++
      (if v.hasVu then bytesAt f.vuPerPkt (5 + f.barsPerPkt + f.scopePerPkt) buf else []) =
      bytesAt (3 + f.barsPerPkt + (if v.hasScope then f.scopePerPkt else 0) + if v.hasVu then f.vuPerPkt else 0) 2 buf :=
    bytesAt_append_section fun h => by rw [if_pos (Variant.hasScope_of_hasVu h)]; omega
  rw [bodyOf, hheader, hbars, hscope, hvu, WireFormat.bodyLen]

theorem packetOf_bodyOf_slices (hsync : hasSync f buf = true) (hlen : buf.length = f.pktLen v) :
    packetOf f (bodyOf v (buf.getD 2 0) (buf.getD 3 0) (buf.getD 4 0) (bytesAt f.barsPerPkt 5 buf)
      (bytesAt f.scopePerPkt (5 + f.barsPerPkt) buf) (bytesAt f.vuPerPkt (5 + f.barsPerPkt + f.scopePerPkt) buf))
      (buf.getD (f.pktLen v - 1) 0) = buf := by
  have h5 : 5 ≤ buf.length := by rw [hlen, WireFormat.pktLen, WireFormat.bodyLen]; omega
  rw [bodyOf_slices h5, packetOf_slices hsync hlen]

end Slices

/-! ## The slices of a packet -/

theorem bytesAt_packetOf (f : WireFormat) {body : List Byte} (checksum : Byte) {n off : Nat} (h : off + n ≤ body.length) :
    bytesAt n (2 + off) (packetOf f body checksum) = bytesAt n off body := by
  have hmarker : (packetOf f body checksum).drop 2 = body ++ [checksum] := rfl
  rw [bytesAt, ← List.drop_drop, hmarker, List.drop_append_of_le_length (by omega),
    List.take_append_of_le_length (by rw [List.length_drop]; omega), bytesAt]

section Fields

variable {f : WireFormat} {v : Variant} {boardId frameSeq brightness checksum : Byte} {bars scope vu : List Byte}

theorem bytesAt_bodyOf_bars (hb : bars.length = f.barsPerPkt) :
    bytesAt f.barsPerPkt 3 (bodyOf v boardId frameSeq brightness bars scope vu) = bars := by
  rw [bodyOf, List.append_assoc]
  exact bytesAt_append _ rfl hb

theorem bytesAt_bodyOf_scope (hv : v.hasScope = true) (hb : bars.length = f.barsPerPkt) (hs : scope.length = f.scopePerPkt) :
    bytesAt f.scopePerPkt (3 + f.barsPerPkt) (bodyOf v boardId frameSeq brightness bars scope vu) = scope := by
  rw [bodyOf, if_pos hv]
  exact bytesAt_append _ (by simp [hb]; omega) hs

theorem bytesAt_bodyOf_vu (hvs : v.hasScope = true) (hvv : v.hasVu = true) (hb : bars.length = f.barsPerPkt)
    (hs : scope.length = f.scopePerPkt) (hv : vu.length = f.vuPerPkt) :
    bytesAt f.vuPerPkt (3 + f.barsPerPkt + f.scopePerPkt) (bodyOf v boardId frameSeq brightness bars scope vu) = vu := by
  rw [bodyOf, if_pos hvs, if_pos hvv, ← List.append_nil (_ ++ vu)]
  exact bytesAt_append _ (by simp [hb, hs]; omega) hv

theorem bytesAt_packetOf_bars (hb : bars.length = f.barsPerPkt) :
    bytesAt f.barsPerPkt 5 (packetOf f (bodyOf v boardId frameSeq brightness bars scope vu) checksum) = bars := by
  rw [show 5 = 2 + 3 from rfl, bytesAt_packetOf f checksum (by simp [bodyOf]; omega), bytesAt_bodyOf_bars hb]

theorem bytesAt_packetOf_scope (hv : v.hasScope = true) (hb : bars.length = f.barsPerPkt) (hs : scope.length = f.scopePerPkt) :
    bytesAt f.scopePerPkt (5 + f.barsPerPkt) (packetOf f (bodyOf v boardId frameSeq brightness bars scope vu) checksum) = scope := by
  rw [show 5 + f.barsPerPkt = 2 + (3 + f.barsPerPkt) by omega, bytesAt_packetOf f checksum (by simp [bodyOf, hv]; omega),
    bytesAt_bodyOf_scope hv hb hs]

theorem bytesAt_packetOf_vu (hvs : v.hasScope = true) (hvv : v.hasVu = true) (hb : bars.length = f.barsPerPkt)
    (hs : scope.length = f.scopePerPkt) (hv : vu.length = f.vuPerPkt) :
    bytesAt f.vuPerPkt (5 + f.barsPerPkt + f.scopePerPkt)
      (packetOf f (bodyOf v boardId frameSeq brightness bars scope vu) checksum) = vu := by
  rw [show 5 + f.barsPerPkt + f.scopePerPkt = 2 + (3 + f.barsPerPkt + f.scopePerPkt) by omega,
    bytesAt_packetOf f checksum (by simp [bodyOf, hvs, hvv]; omega), bytesAt_bodyOf_vu hvs hvv hb hs hv]

end Fields

/-- The last byte of a packet is its checksum (R94). -/
theorem packetOf_getD_last {f : WireFormat} {v : Variant} {body : List Byte} (checksum : Byte) (h : body.length = f.bodyLen v) :
    (packetOf f body checksum).getD (f.pktLen v - 1) 0 = checksum := by
  rw [WireFormat.pktLen, ← h]
  exact packetOf_getD_checksum f body checksum

end Sys2Proof
end

section
/-!
The decoder of instruction words and the encoder of the same tables are inverse to one another (R91 to R93, R98, R101): of commands,
of wire bytes at their position, and of datagrams that are a packet.
-/

namespace Sys2Proof

variable {K : Type}

/-! ## Commands (R101) -/

theorem decodeCommand_eq_ok {f : WireFormat} {w : CmdWord K} {i : Instr K} :
    decodeCommand f w = .ok i ↔ selectsOperation w.op = true ∧ decodeOperands f w.op.toNat w.operands = some i := by
  unfold decodeCommand
  cases selectsOperation w.op <;> cases decodeOperands f w.op.toNat w.operands <;> simp

theorem decodeCommand_eq_noOperation {f : WireFormat} {w : CmdWord K} :
    decodeCommand f w = .error (.noOperation w.op) ↔ selectsOperation w.op = false := by
  unfold decodeCommand
  cases selectsOperation w.op <;> cases decodeOperands f w.op.toNat w.operands <;> simp

theorem selectsOperation_eq_false {op : BitVec 4} : selectsOperation op = false ↔ op = 0 ∨ 9 ≤ op.toNat := by
  rw [selectsOperation, Bool.and_eq_false_iff, decide_eq_false_iff_not, decide_eq_false_iff_not, BitVec.toNat_eq]
  simp only [BitVec.ofNat_eq_ofNat, BitVec.toNat_ofNat, Nat.zero_mod]
  omega

theorem encode_decodeEncode {f : WireFormat} {os : List (Operand K)} {i : Instr K} (h : decodeEncode f os = some i) :
    encode f i = .command ⟨4, os⟩ := by
  unfold decodeEncode at h
  split at h
  · split at h
    · injection h with h
      subst h
      rfl
    · cases h
  · cases h

theorem encode_decodePublish (f : WireFormat) {os : List (Operand K)} {i : Instr K} (h : decodePublish os = some i) :
    encode f i = .command ⟨7, os⟩ := by
  unfold decodePublish at h
  split at h
  · obtain ⟨vu, hvu, rfl⟩ := Option.map_eq_some_iff.mp h
    rw [encode, toList_of_toArrayOperand hvu]
  · cases h

/-- Operands that decode are those of the instruction's word, and the code is the word's. -/
theorem encode_decodeOperands {f : WireFormat} {op : Nat} {os : List (Operand K)} {i : Instr K}
    (h : decodeOperands f op os = some i) : encode f i = .command ⟨BitVec.ofNat 4 op, os⟩ := by
  unfold decodeOperands at h
  split at h
  case h_4 => exact encode_decodeEncode h
  case h_7 => exact encode_decodePublish f h
  case h_9 => cases h
  all_goals
    injection h with h
    subst h
    rfl

theorem encode_decodeCommand {f : WireFormat} {w : CmdWord K} {i : Instr K} (h : decodeCommand f w = .ok i) :
    encode f i = .command w := by
  obtain ⟨-, hi⟩ := decodeCommand_eq_ok.mp h
  rw [encode_decodeOperands hi, BitVec.ofNat_toNat, BitVec.setWidth_eq]

/-! ## Wire bytes (R98) -/

theorem encode_decodeWire (f : WireFormat) (p : DecPos) (b : Byte) : encode f (decodeWire f p b : Instr K) = .wire b := by
  cases p with
  | s0 | s1 =>
    simp only [decodeWire]
    split_ifs with h <;> simp only [encode, *]
  | s2Body => rfl
  | s2Check => rfl

theorem atPos_decodeWire (f : WireFormat) (p : DecPos) (b : Byte) : (decodeWire f p b : Instr K).atPos p = true := by
  cases p with
  | s0 | s1 =>
    simp only [decodeWire]
    split_ifs <;> rfl
  | s2Body => rfl
  | s2Check => rfl

/-- Only the rows of R98 name a position. -/
theorem atPos_of_encode_ne_wire {f : WireFormat} {i : Instr K} (h : ∀ b, encode f i ≠ .wire b) (p : DecPos) : i.atPos p = true := by
  cases i with
  | decS0Sync0 | decS0Other | decS1Sync1 | decS1Sync0 | decS1Other | decS2Body | decS2Check => exact absurd rfl (h _)
  | _ => rfl

/-! ## Datagrams (R91 to R93) -/

/-- The buffer is a packet: the sync marker, and the length of one of the three formats. -/
def IsPacket (f : WireFormat) (buf : List Byte) : Prop :=
  hasSync f buf = true ∧ (buf.length = f.pktLen .v116 ∨ buf.length = f.pktLen .v112 ∨ buf.length = f.pktLen .v59)

theorem isPacket_iff {f : WireFormat} {buf : List Byte} : IsPacket f buf ↔ buf.getD 0 0 = f.sync0 ∧ buf.getD 1 0 = f.sync1 ∧
    (buf.length = f.pktLen .v116 ∨ buf.length = f.pktLen .v112 ∨ buf.length = f.pktLen .v59) := by
  rw [IsPacket, hasSync_iff, and_assoc]

section Datagram

variable {f : WireFormat} {buf : List Byte}

theorem decodeDatagram_v116 (hsync : hasSync f buf = true) (hlen : buf.length = f.pktLen .v116) :
    (decodeDatagram f buf : Instr K) =
      .pktV116 (buf.getD 2 0) (buf.getD 3 0) (buf.getD 4 0) (bytesAt f.barsPerPkt 5 buf)
        (bytesAt f.scopePerPkt (5 + f.barsPerPkt) buf) (bytesAt f.vuPerPkt (5 + f.barsPerPkt + f.scopePerPkt) buf)
        (buf.getD (f.pktLen .v116 - 1) 0) := by
  rw [decodeDatagram, if_pos hsync, if_pos hlen]

theorem decodeDatagram_v112 (hsync : hasSync f buf = true) (h116 : buf.length ≠ f.pktLen .v116) (hlen : buf.length = f.pktLen .v112) :
    (decodeDatagram f buf : Instr K) =
      .pktV112 (buf.getD 2 0) (buf.getD 3 0) (buf.getD 4 0) (bytesAt f.barsPerPkt 5 buf)
        (bytesAt f.scopePerPkt (5 + f.barsPerPkt) buf) (buf.getD (f.pktLen .v112 - 1) 0) := by
  rw [decodeDatagram, if_pos hsync, if_neg h116, if_pos hlen]

theorem decodeDatagram_v59 (hsync : hasSync f buf = true) (h116 : buf.length ≠ f.pktLen .v116) (h112 : buf.length ≠ f.pktLen .v112)
    (hlen : buf.length = f.pktLen .v59) :
    (decodeDatagram f buf : Instr K) =
      .pktV59 (buf.getD 2 0) (buf.getD 3 0) (buf.getD 4 0) (bytesAt f.barsPerPkt 5 buf) (buf.getD (f.pktLen .v59 - 1) 0) := by
  rw [decodeDatagram, if_pos hsync, if_neg h116, if_neg h112, if_pos hlen]

theorem decodeDatagram_of_not_isPacket (h : ¬ IsPacket f buf) : (decodeDatagram f buf : Instr K) = .decValidate buf := by
  unfold decodeDatagram
  split_ifs with hsync h116 h112 h59
  · exact absurd ⟨hsync, .inl h116⟩ h
  · exact absurd ⟨hsync, .inr (.inl h112)⟩ h
  · exact absurd ⟨hsync, .inr (.inr h59)⟩ h
  · rfl
  · rfl

/-- A packet decodes to the format whose fields it is made of; where two formats have one length, to the first of R91 to R93. -/
theorem encode_decodeDatagram (h : IsPacket f buf) : encode f (decodeDatagram f buf : Instr K) = .datagram buf := by
  obtain ⟨hsync, hlen⟩ := h
  by_cases h116 : buf.length = f.pktLen .v116
  · rw [decodeDatagram_v116 hsync h116]
    exact congrArg _ (packetOf_bodyOf_slices (v := .v116) hsync h116)
  by_cases h112 : buf.length = f.pktLen .v112
  · rw [decodeDatagram_v112 hsync h116 h112]
    exact congrArg _ (packetOf_bodyOf_slices (v := .v112) hsync h112)
  have h59 : buf.length = f.pktLen .v59 := (hlen.resolve_left h116).resolve_left h112
  rw [decodeDatagram_v59 hsync h116 h112 h59]
  exact congrArg _ (packetOf_bodyOf_slices (v := .v59) hsync h59)

end Datagram

section Packets

variable {f : WireFormat} {bars scope vu : List Byte} (boardId frameSeq brightness checksum : Byte)

theorem decodeDatagram_packet_v116 (hb : bars.length = f.barsPerPkt) (hs : scope.length = f.scopePerPkt) (hv : vu.length = f.vuPerPkt) :
    decodeDatagram f (packetOf f (bodyOf .v116 boardId frameSeq brightness bars scope vu) checksum) =
      (.pktV116 boardId frameSeq brightness bars scope vu checksum : Instr K) := by
  rw [decodeDatagram_v116 (packetOf_hasSync ..) (packetOf_bodyOf_length .v116 hb (fun _ => hs) (fun _ => hv) ..),
    bytesAt_packetOf_bars hb, bytesAt_packetOf_scope rfl hb hs, bytesAt_packetOf_vu rfl rfl hb hs hv,
    packetOf_getD_last _ (bodyOf_length .v116 hb (fun _ => hs) (fun _ => hv) ..)]
  rfl

theorem decodeDatagram_packet_v112 (hb : bars.length = f.barsPerPkt) (hs : scope.length = f.scopePerPkt)
    (h116 : f.pktLen .v112 ≠ f.pktLen .v116) :
    decodeDatagram f (packetOf f (bodyOf .v112 boardId frameSeq brightness bars scope []) checksum) =
      (.pktV112 boardId frameSeq brightness bars scope checksum : Instr K) := by
  have hlen := packetOf_bodyOf_length (vu := []) .v112 hb (fun _ => hs) nofun boardId frameSeq brightness checksum
  rw [decodeDatagram_v112 (packetOf_hasSync ..) (hlen ▸ h116) hlen,
    bytesAt_packetOf_bars hb, bytesAt_packetOf_scope rfl hb hs,
    packetOf_getD_last _ (bodyOf_length .v112 hb (fun _ => hs) nofun ..)]
  rfl

theorem decodeDatagram_packet_v59 (hb : bars.length = f.barsPerPkt) (h116 : f.pktLen .v59 ≠ f.pktLen .v116)
    (h112 : f.pktLen .v59 ≠ f.pktLen .v112) :
    decodeDatagram f (packetOf f (bodyOf .v59 boardId frameSeq brightness bars [] []) checksum) =
      (.pktV59 boardId frameSeq brightness bars checksum : Instr K) := by
  have hlen := packetOf_bodyOf_length (scope := []) (vu := []) .v59 hb nofun nofun boardId frameSeq brightness checksum
  rw [decodeDatagram_v59 (packetOf_hasSync ..) (hlen ▸ h116) (hlen ▸ h112) hlen,
    bytesAt_packetOf_bars hb, packetOf_getD_last _ (bodyOf_length .v59 hb nofun nofun ..)]
  rfl

end Packets

/-! ## Both ways -/

/-- Settles O1, row by row: a command's operands are matched in the order they are written in, a wire byte is of its row's class, and a
packet's fields are the slices at their offsets. -/
theorem decodeOfEncode : Obligations.DecodeOfEncode := by
  intro K c p i hwf hpos
  cases i with
  | saProcess | lmProcess | wtProcess | decFeed | decValidate | fsTick => rfl
  | encEncode =>
    refine decodeCommand_eq_ok.mpr ⟨rfl, ?_⟩
    exact if_pos hwf
  | fsPublish bars scope vu =>
    refine decodeCommand_eq_ok.mpr ⟨rfl, ?_⟩
    exact congrArg (Option.map _) (toArrayOperand_toList vu)
  | pktV116 =>
    obtain ⟨hb, hs, hv⟩ := encoderArraysFit_eq_true.mp hwf
    exact congrArg Except.ok (decodeDatagram_packet_v116 _ _ _ _ hb hs hv)
  | pktV112 =>
    simp only [Instr.wellFormed, Bool.and_eq_true, decide_eq_true_eq] at hwf
    obtain ⟨⟨hb, hs⟩, h116⟩ := hwf
    exact congrArg Except.ok (decodeDatagram_packet_v112 _ _ _ _ hb hs h116)
  | pktV59 =>
    simp only [Instr.wellFormed, Bool.and_eq_true, decide_eq_true_eq] at hwf
    obtain ⟨⟨hb, h116⟩, h112⟩ := hwf
    exact congrArg Except.ok (decodeDatagram_packet_v59 _ _ _ _ hb h116 h112)
  | decS0Sync0 | decS1Sync1 =>
    obtain rfl := eq_of_beq hpos
    exact congrArg Except.ok (if_pos rfl)
  | decS0Other =>
    obtain rfl := eq_of_beq hpos
    exact congrArg Except.ok (if_neg (of_decide_eq_true hwf))
  | decS1Sync0 =>
    obtain rfl := eq_of_beq hpos
    exact congrArg Except.ok ((if_neg (of_decide_eq_true hwf)).trans (if_pos rfl))
  | decS1Other =>
    obtain rfl := eq_of_beq hpos
    simp only [Instr.wellFormed, Bool.and_eq_true, decide_eq_true_eq] at hwf
    obtain ⟨h0, h1⟩ := hwf
    exact congrArg Except.ok ((if_neg h1).trans (if_neg h0))
  | decS2Body | decS2Check =>
    obtain rfl := eq_of_beq hpos
    rfl

/-- Settles O2: a command and a wire byte are re-encoded from what they were matched with, and a packet from its slices. -/
theorem encodeOfDecode : Obligations.EncodeOfDecode := by
  intro K f p w i h
  cases w with
  | command w =>
    have hword := encode_decodeCommand h
    exact ⟨atPos_of_encode_ne_wire (f := f) (by simp [hword]) p, .inl hword⟩
  | wire b =>
    injection h with h
    subst h
    exact ⟨atPos_decodeWire f p b, .inl (encode_decodeWire f p b)⟩
  | datagram buf =>
    injection h with h
    subst h
    by_cases hpkt : IsPacket f buf
    · have hword := encode_decodeDatagram (K := K) hpkt
      exact ⟨atPos_of_encode_ne_wire (f := f) (by simp [hword]) p, .inl hword⟩
    · rw [decodeDatagram_of_not_isPacket hpkt]
      exact ⟨rfl, .inr ⟨buf, rfl, rfl, mt isPacket_iff.mpr hpkt⟩⟩

/-- Settles O3: the nine words are the encodings, under the wire constants of the reference record, of well-formed instructions at the
positions given. -/
theorem decodedWordsAreRight : Obligations.DecodedWordsAreRight :=
  have hdecode := decodeOfEncode Number Config.reference
  ⟨hdecode .s0 (.saProcess [1, -1]) rfl rfl, hdecode .s0 (.lmProcess [1] [2]) rfl rfl, hdecode .s2Body (.fsTick 0x80#8) rfl rfl,
    hdecode .s0 .decS0Sync0 rfl rfl, hdecode .s0 (.decS0Other 0x55#8) rfl rfl, hdecode .s1 .decS1Sync1 rfl rfl,
    hdecode .s1 .decS1Sync0 rfl rfl, hdecode .s2Body (.decS2Body 0xAA#8) rfl rfl,
    hdecode .s0 (.pktV59 0#8 7#8 0x80#8 (List.replicate 53 0#8) 0x87#8) rfl rfl⟩

/-- Settles O4: a command is answered so exactly where its code selects no operation. -/
theorem unassignedOperationCodes : Obligations.UnassignedOperationCodes :=
  fun _ _ _ _ _ => decodeCommand_eq_noOperation.trans selectsOperation_eq_false

end Sys2Proof

namespace Sys2Proof.Machine

/-- Settles O6: the block's step answers such a word with its own state. -/
theorem unselectedWordChangesNothing : Obligations.UnselectedWordChangesNothing := by
  intro s w rest e hvalid hinbox hdecode
  have hpos : s.toBlockState.decPos s.cfg = s.decPos := rfl
  rw [step_of_pending hvalid hinbox]
  simp only [BlockState.step, hpos, hdecode]
  rfl

/-- Settles O42: the seven rows that are written in a wire byte are that byte fed, each by its own rule. -/
theorem byteClassRowsAreTheByteFed : Obligations.ByteClassRowsAreTheByteFed := by
  intro i b s h
  cases i with
  | saProcess | lmProcess | wtProcess | encEncode | decFeed | decValidate | fsPublish | fsTick | pktV116 | pktV112 | pktV59 => cases h
  | decS0Sync0 | decS0Other | decS1Sync1 | decS1Sync0 | decS1Other | decS2Body | decS2Check =>
    injection h with h
    subst h
    rw [exec_eq, exec_eq, BlockState.exec_eq_unitEffect, BlockState.exec_eq_unitEffect]
    rfl

end Sys2Proof.Machine
end

section
/-!
The packet rows (R91 to R93): what the validator (R232) answers a packet of fields, in the receiver's own format and in another.
-/

namespace Sys2Proof.Machine

/-- With both optional sections present the three formats have three body lengths. -/
theorem bodyLen_injective {f : WireFormat} (hs : 0 < f.scopePerPkt) (hv : 0 < f.vuPerPkt) : Function.Injective f.bodyLen := by
  intro v v' h
  cases v <;> cases v' <;> simp [WireFormat.bodyLen, Variant.hasScope, Variant.hasVu] at h ⊢ <;> omega

/-- `parse` gives back the fields a body is made of (R211, R231). -/
theorem parseBody_bodyOf {f : WireFormat} {bars scope vu : List Byte} (v : Variant) (hb : bars.length = f.barsPerPkt)
    (hs : v.hasScope = true → scope.length = f.scopePerPkt) (hv : v.hasVu = true → vu.length = f.vuPerPkt)
    (boardId frameSeq brightness : Byte) :
    parseBody f v (bodyOf v boardId frameSeq brightness bars scope vu) =
      ⟨boardId, frameSeq, brightness, bars, if v.hasScope then some scope else none, if v.hasVu then some vu else none⟩ := by
  rw [parseBody, bytesAt_bodyOf_bars hb]
  congr 1
  · split_ifs with h
    · rw [bytesAt_bodyOf_scope h hb (hs h)]
    · rfl
  · split_ifs with h
    · have hscope := Variant.hasScope_of_hasVu h
      rw [bytesAt_bodyOf_vu hscope h hb (hs hscope) (hv h)]
    · rfl

theorem validatePacket_of_length_ne {f : WireFormat} {v : Variant} {body : List Byte} (h : body.length ≠ f.bodyLen v) (checksum : Byte) :
    validatePacket f v (packetOf f body checksum) = none := by
  rw [validatePacket, if_pos]
  rw [packetOf_length, WireFormat.pktLen]
  omega

theorem validatePacket_packetOf {f : WireFormat} {v : Variant} {body : List Byte} (h : body.length = f.bodyLen v) (checksum : Byte) :
    validatePacket f v (packetOf f body checksum) = if checksum = xorBytes body then some (parseBody f v body) else none := by
  have hbody : packetBody f v (packetOf f body checksum) = body := by
    rw [packetBody, ← h]
    exact packetOf_body f body checksum
  have hlen : (packetOf f body checksum).length = f.pktLen v := by rw [packetOf_length, h, WireFormat.pktLen]
  rw [validatePacket, if_neg (not_not.mpr hlen), if_neg (by simp [packetOf]), hbody, packetOf_getD_last checksum h]
  simp only [ne_eq, ite_not, eq_comm]

/-- A packet of the variant `v'` at a receiver of the variant `v` (R97, R232). -/
theorem validatePacket_bodyOf {f : WireFormat} {bars scope vu : List Byte} (hscope : 0 < f.scopePerPkt) (hvu : 0 < f.vuPerPkt)
    (v v' : Variant) (hb : bars.length = f.barsPerPkt) (hs : v'.hasScope = true → scope.length = f.scopePerPkt)
    (hv : v'.hasVu = true → vu.length = f.vuPerPkt) (boardId frameSeq brightness checksum : Byte) :
    validatePacket f v (packetOf f (bodyOf v' boardId frameSeq brightness bars scope vu) checksum) =
      if v = v' ∧ checksum = xorFold (bodyOf v' boardId frameSeq brightness bars scope vu) then
        some ⟨boardId, frameSeq, brightness, bars, if v'.hasScope then some scope else none, if v'.hasVu then some vu else none⟩
      else none := by
  have hlen := bodyOf_length v' hb hs hv boardId frameSeq brightness
  by_cases hvv : v = v'
  · subst hvv
    rw [validatePacket_packetOf hlen, parseBody_bodyOf v hb hs hv, xorFold_eq_xorBytes]
    simp only [true_and]
  · rw [validatePacket_of_length_ne, if_neg fun h => hvv h.1]
    exact fun h => hvv (bodyLen_injective hscope hvu (h.symm.trans hlen))

/-- Settles O45: each row is its datagram, given to the validator of the receiver. -/
theorem packetRowsDeliverTheirFields : Obligations.PacketRowsDeliverTheirFields := by
  intro boardId frameSeq brightness bars scope vu ck s harrays hscope hvu
  obtain ⟨hb, hs, hv⟩ := harrays
  have h116 := validatePacket_bodyOf hscope hvu s.cfg.decVariant .v116 hb (fun _ => hs) (fun _ => hv) boardId frameSeq brightness ck
  have h112 := validatePacket_bodyOf (vu := []) hscope hvu s.cfg.decVariant .v112 hb (fun _ => hs) nofun boardId frameSeq brightness ck
  have h59 := validatePacket_bodyOf (scope := []) (vu := []) hscope hvu s.cfg.decVariant .v59 hb nofun nofun boardId frameSeq brightness ck
  have hrow {r r' : Option DecodedFrame} (h : r = r') :
      (.next { s with result := .validated r } : Result) = .next { s with result := .validated r' } := h ▸ rfl
  refine ⟨hrow h116, hrow (h112.trans ?_), hrow (h59.trans ?_)⟩
  · rw [show bodyOf .v112 boardId frameSeq brightness bars scope [] = [boardId, frameSeq, brightness] ++ bars ++ scope
      from List.append_nil _]
    rfl
  · rw [show bodyOf .v59 boardId frameSeq brightness bars [] [] = [boardId, frameSeq, brightness] ++ bars
      from (List.append_nil _).trans (List.append_nil _)]
    rfl

end Sys2Proof.Machine
end

section
/-!
What `track`, `smooth`, the display window and `rne` answer (R124, R126, R129, R131), for any ordered field.
-/

namespace Sys2Proof.Machine

variable {K : Type} [Field K] [LinearOrder K]

/-- The tracker (R126) is the smoother (R131): they differ in the branch taken where nothing moves. -/
theorem track_eq_smooth (tp m rise rel : K) : track tp m rise rel = smooth tp m rise rel := by
  rcases lt_trichotomy m tp with h | rfl | h
  · rw [track_of_le h.le, smooth, if_neg (not_le.mpr h)]
  · rw [track_of_le le_rfl, smooth, if_pos le_rfl, sub_self, mul_zero, mul_zero]
  · rw [track_of_gt h, smooth, if_pos h.le]

variable [IsStrictOrderedRing K]

theorem displayWindow_width (tp headroom range dbFloor : K) :
    (displayWindow tp headroom range dbFloor).ceil - (displayWindow tp headroom range dbFloor).floor =
      min range (headroom + (tp - dbFloor)) := by
  calc tp + headroom - max (tp + headroom - range) dbFloor
      = min (tp + headroom - (tp + headroom - range)) (tp + headroom - dbFloor) := (min_sub_sub_left _ _ _).symm
    _ = min range (headroom + (tp - dbFloor)) := by congr 1 <;> ring

/-- Settles O56: both are the smoother, which stays in every range that holds the old and the new value. -/
theorem trackAndSmoothStayBetween : Obligations.TrackAndSmoothStayBetween := by
  intro K _ _ _ old new rise rel hrise hrise' hrel hrel'
  obtain ⟨hlo, hhi⟩ := smooth_mem (cur := old) (target := new) ⟨hrise, hrise'⟩ ⟨hrel, hrel'⟩
    ⟨min_le_left old new, le_max_left old new⟩ ⟨min_le_right old new, le_max_right old new⟩
  rw [track_eq_smooth]
  exact ⟨hlo, hhi, hlo, hhi⟩

/-- Settles O57: the width is the smaller of the range and the headroom plus the tracker's distance from the floor. -/
theorem windowWidthIsPositive : Obligations.WindowWidthIsPositive := by
  intro K _ _ _ tp headroom range dbFloor htp hheadroom hrange w
  rw [displayWindow_width]
  refine ⟨min_le_min_left range ?_, lt_min hrange ?_, min_le_left _ _⟩ <;> linarith

/-! ## `rne` (R124) -/

section Rne

variable [FloorRing K]

theorem rne_down_or_up (v : K) : (rne v = ⌊v⌋ ∧ v - ⌊v⌋ ≤ 1 / 2) ∨ (rne v = ⌊v⌋ + 1 ∧ 1 / 2 ≤ v - ⌊v⌋) := by
  rcases rne_cases v with ⟨h, hv⟩ | ⟨h, hv⟩ | ⟨h, hv, -⟩ | ⟨h, hv, -⟩
  · exact .inl ⟨h, hv.le⟩
  · exact .inr ⟨h, hv.le⟩
  · exact .inl ⟨h, hv.le⟩
  · exact .inr ⟨h, hv.ge⟩

theorem abs_rne_sub_le (v : K) : |(rne v : K) - v| ≤ 1 / 2 := by
  have hle := Int.floor_le v
  have hlt := Int.lt_floor_add_one v
  rcases rne_down_or_up v with ⟨h, hv⟩ | ⟨h, hv⟩
  · rw [h, abs_of_nonpos (by linarith)]
    linarith
  · rw [h, Int.cast_add, Int.cast_one, abs_of_nonneg (by linarith)]
    linarith

theorem rne_even_of_tie {v : K} (htie : |(rne v : K) - v| = 1 / 2) : rne v % 2 = 0 := by
  have hle := Int.floor_le v
  have hlt := Int.lt_floor_add_one v
  rcases rne_cases v with ⟨h, hv⟩ | ⟨h, hv⟩ | ⟨h, -, heven⟩ | ⟨h, -, hodd⟩
  · rw [h, abs_of_nonpos (by linarith)] at htie
    linarith
  · rw [h, Int.cast_add, Int.cast_one, abs_of_nonneg (by linarith)] at htie
    linarith
  · rw [h, heven]
  · omega

/-- Where the roundings of `v ≤ w` were the other way round, both would be ties with even results one apart. -/
theorem rne_mono {v w : K} (h : v ≤ w) : rne v ≤ rne w := by
  by_contra! hlt
  have hstep : (rne w : K) + 1 ≤ rne v := mod_cast hlt
  obtain ⟨-, hv⟩ := abs_le.mp (abs_rne_sub_le v)
  obtain ⟨hw, -⟩ := abs_le.mp (abs_rne_sub_le w)
  have hvtie : |(rne v : K) - v| = 1 / 2 := by rw [abs_of_nonneg] <;> linarith
  have hwtie : |(rne w : K) - w| = 1 / 2 := by rw [abs_of_nonpos] <;> linarith
  have hnext : (rne v : K) = (rne w + 1 : Int) := by push_cast; linarith
  have hveven := rne_even_of_tie hvtie
  have hweven := rne_even_of_tie hwtie
  have hnext' := Int.cast_injective hnext
  omega

/-- Settles O54: integers round to themselves, so monotonicity gives the bounds. -/
theorem rneRoundsToNearestEven : Obligations.RneRoundsToNearestEven := by
  intro K _ _ _ _ v
  refine ⟨abs_rne_sub_le v, rne_even_of_tie, fun w => rne_mono, fun a b ha hb => ⟨?_, ?_⟩⟩
  · exact rne_intCast (K := K) a ▸ rne_mono ha
  · exact rne_intCast (K := K) b ▸ rne_mono hb

end Rne

end Sys2Proof.Machine
end

section
/-!
The band levels (R139, R140, R152 to R154): the sums of the spectrum and of the band means as sums over their indices, and the bins a
band covers.
-/

namespace Sys2Proof.Machine

variable {K : Type} [Field K]

theorem sumNums_eq_sum_range {l : List K} {n : Nat} {g : Nat → K} (hlen : l.length = n)
    (hg : ∀ i (h : i < l.length), l[i] = g i) : sumNums l = ∑ i ∈ Finset.range n, g i := by
  subst hlen
  rw [sumNums_eq_sum, ← Fin.sum_univ_getElem, Finset.sum_range]
  exact Finset.sum_congr rfl fun i _ => hg i i.isLt

/-- The mean of a slice of a tabulated function is the mean of its values (R153). -/
theorem meanSlice_map_range (g : Nat → K) {size lo hi : Nat} (h : hi ≤ size) :
    meanSlice ((List.range size).map g) (lo, hi) = (∑ k ∈ Finset.Ico lo hi, g k) / ((hi - lo : Nat) : K) := by
  rw [meanSlice, Finset.sum_Ico_eq_sum_range, sumNums_eq_sum_range]
  · simp only [List.length_take, List.length_drop, List.length_map, List.length_range]
    omega
  · simp

/-! ## The spectrum of the windowed block (R139, R152) -/

/-- The terms of both sums of R139, with `turn` the cosine or the sine. -/
theorem sumNums_windowedBlock {c : ConfigOf K} {blk : List K} (hblk : blk.length = c.nb) (hwin : c.win.length = c.nb)
    (turn : Nat → K) :
    sumNums ((windowedBlock c blk).zipIdx.map fun p => p.1 * turn p.2) =
      ∑ n ∈ Finset.range c.nb, blk.getD n 0 * c.win.getD n 0 * turn n := by
  refine sumNums_eq_sum_range (by simp [windowedBlock, hblk, hwin]) fun n hn => ?_
  have hnb : n < c.nb := by simpa [windowedBlock, hblk, hwin] using hn
  rw [List.getD_eq_getElem _ _ (hblk ▸ hnb), List.getD_eq_getElem _ _ (hwin ▸ hnb)]
  simp [windowedBlock]

variable [LinearOrder K]

/-! ## `span` (R140) -/

theorem lt_spanHi (edges : List Nat) (i : Nat) : edges.getD i 0 < spanHi edges i := by
  rw [spanHi]
  split_ifs with h
  · exact h
  · exact Nat.lt_succ_self _

theorem edge_le_of_valid {c : ConfigOf K} (hc : c.Valid) {i : Nat} (hi : i ≤ c.nBands) : c.edges.getD i 0 ≤ c.nb / 2 := by
  obtain ⟨-, ⟨-, hlen, hle, -⟩, -, -⟩ := c.valid_iff.mp hc
  rw [List.getD_eq_getElem _ _ (by omega)]
  exact hle _ (List.getElem_mem _)

theorem spanHi_le {c : ConfigOf K} (hc : c.Valid) {i : Nat} (hi : i < c.nBands) : spanHi c.edges i ≤ c.nb / 2 + 1 := by
  have hlo := edge_le_of_valid hc hi.le
  have hhi := edge_le_of_valid hc (i := i + 1) hi
  rw [spanHi]
  split_ifs <;> omega

/-- Settles O58: an upper edge is above the lower one, and at most one above an edge of the table. -/
theorem spansStayInsideTheSpectrum : Obligations.SpansStayInsideTheSpectrum :=
  fun _ _ _ _ c i hc hi => ⟨lt_spanHi c.edges i, Nat.sub_le_of_le_add (spanHi_le hc hi)⟩

/-! ## The levels (R152 to R154) -/

theorem bandLevels_getElem? (f : NumFns K) (c : ConfigOf K) (blk : List K) {i : Nat} (hi : i < c.nBands) :
    (bandLevels f c blk)[i]? = some (toDb f c.magFloor (meanSlice (rfftMag f c.nb (windowedBlock c blk)) (span c.edges i))) := by
  simp [bandLevels, bandMeans, hi]

/-- Settles O21: the spectrum holds every bin of the band, and its bins are the sums of R139 over the windowed block. -/
theorem bandLevelsAreTheSpectrumMeans : Obligations.BandLevelsAreTheSpectrumMeans := by
  intro K _ _ _ f c blk i hc hblk hi lo hi' re im mean
  obtain ⟨-, ⟨hwin, -⟩, -, -⟩ := c.valid_iff.mp hc
  have hmag (k : Nat) : dftMag f (windowedBlock c blk) c.nb k = f.sqrt (re k ^ 2 + im k ^ 2) := by
    rw [dftMag, dftRe, dftIm, sumNums_windowedBlock hblk hwin fun n => f.cosTurn ((k * n : Nat) / (c.nb : K)),
      sumNums_windowedBlock hblk hwin fun n => f.sinTurn ((k * n : Nat) / (c.nb : K)), ← sq, ← sq]
  have hmean : meanSlice (rfftMag f c.nb (windowedBlock c blk)) (span c.edges i) = mean := by
    rw [rfftMag, span, meanSlice_map_range _ (spanHi_le hc hi)]
    simp only [hmag]
    rfl
  rw [bandLevels_getElem? f c blk hi, hmean, toDb]

end Sys2Proof.Machine
end

section
/-!
The default tables: the recommended generator (R137) as its formula over the reals, and the Hann window (R138).
-/

namespace Sys2Proof.Machine

/-! ## A table that meets R136 (c) -/

theorem nondecreasing_iff_isChain (l : List Nat) : ConfigOf.nondecreasing l = true ↔ l.IsChain (· ≤ ·) := by
  fun_induction ConfigOf.nondecreasing l with
  | case1 => simp
  | case2 a => simp
  | case3 a b rest ih => simp [ih]

/-! ## The generator (R137) -/

section Generator

variable {K : Type} [Field K] [LinearOrder K]

/-- The comparison the generator makes for the bin `m`, without roots (log 20). -/
abbrev EdgeReaches (c : ConfigOf K) (j m : Nat) : Prop :=
  ((m : K) * c.fsHz / (c.nb * c.fminHz)) ^ c.nBands ≤ (c.fmaxHz / c.fminHz) ^ j

theorem edgeBin_eq_findGreatest (c : ConfigOf K) (j bound : Nat) : edgeBin c j bound = Nat.findGreatest (EdgeReaches c j) bound := by
  induction bound with
  | zero => rfl
  | succ m ih => rw [edgeBin, Nat.findGreatest_succ, ih]

@[simp] theorem edgesGenerated_length (c : ConfigOf K) : (edgesGenerated c).length = c.nBands + 1 := by simp [edgesGenerated]

theorem edgesGenerated_getD (c : ConfigOf K) {j : Nat} (hj : j ≤ c.nBands) : (edgesGenerated c).getD j 0 = edgeBin c j (c.nb / 2) := by
  simp [edgesGenerated, List.getD, Nat.lt_succ_of_le hj]

variable [IsStrictOrderedRing K]

/-- The frequencies of R137 grow with `j`. -/
theorem edgeBin_le_succ {c : ConfigOf K} (hmin : 0 < c.fminHz) (hmax : c.fminHz < c.fmaxHz) (j bound : Nat) :
    edgeBin c j bound ≤ edgeBin c (j + 1) bound := by
  rw [edgeBin_eq_findGreatest, edgeBin_eq_findGreatest]
  have hratio : 1 ≤ c.fmaxHz / c.fminHz := (one_le_div hmin).mpr hmax.le
  exact Nat.findGreatest_mono_left (fun m hm => hm.trans (pow_le_pow_right₀ hratio j.le_succ)) bound

theorem edgesGenerated_nondecreasing {c : ConfigOf K} (hmin : 0 < c.fminHz) (hmax : c.fminHz < c.fmaxHz) :
    ConfigOf.nondecreasing (edgesGenerated c) = true := by
  rw [nondecreasing_iff_isChain, edgesGenerated, List.isChain_map, List.isChain_range]
  exact fun j _ => edgeBin_le_succ hmin hmax j _

end Generator

/-- `f_j * NB / FS_HZ` of R137. -/
noncomputable def edgePos (c : ConfigOf ℝ) (j : Nat) : ℝ :=
  c.fminHz * (c.fmaxHz / c.fminHz) ^ ((j : ℝ) / (c.nBands : ℝ)) * (c.nb : ℝ) / c.fsHz

section Reals

variable {c : ConfigOf ℝ} (hnb : 1 ≤ c.nb) (hbands : 1 ≤ c.nBands) (hmin : 0 < c.fminHz) (hmax : c.fminHz < c.fmaxHz)
  (hfs : 0 < c.fsHz)
include hnb hbands hmin hmax hfs

/-- The generator's comparison without roots is the one with the root of R137 (log 20). -/
theorem edgeReaches_iff (j m : Nat) : EdgeReaches c j m ↔ (m : ℝ) ≤ edgePos c j := by
  have hnb' : (0 : ℝ) < c.nb := by exact_mod_cast hnb
  have hbands' : c.nBands ≠ 0 := by omega
  have hratio : 0 < c.fmaxHz / c.fminHz := div_pos (hmin.trans hmax) hmin
  have hroot : ((c.fmaxHz / c.fminHz) ^ ((j : ℝ) / c.nBands)) ^ c.nBands = (c.fmaxHz / c.fminHz) ^ j := by
    rw [← Real.rpow_mul_natCast hratio.le, div_mul_cancel₀ _ (Nat.cast_ne_zero.mpr hbands'), Real.rpow_natCast]
  rw [EdgeReaches, ← hroot, pow_le_pow_iff_left₀ (by positivity) (by positivity) hbands', div_le_iff₀ (by positivity), edgePos,
    le_div_iff₀ hfs]
  exact iff_of_eq (congrArg _ (by ring))

/-- The greatest bin below a bound that meets a real bound is the clamped floor (R137). -/
theorem edgeBin_eq_formula (j bound : Nat) : (edgeBin c j bound : Int) = max 0 (min (bound : Int) ⌊edgePos c j⌋) := by
  have hpos : 0 ≤ edgePos c j := by
    have hratio : 0 < c.fmaxHz / c.fminHz := div_pos (hmin.trans hmax) hmin
    rw [edgePos]
    positivity
  have hfloor (m : Nat) : (m : ℝ) ≤ edgePos c j ↔ m ≤ ⌊edgePos c j⌋₊ := (Nat.le_floor_iff hpos).symm
  have hbin : edgeBin c j bound = min bound ⌊edgePos c j⌋₊ := by
    rw [edgeBin_eq_findGreatest, Nat.findGreatest_eq_iff]
    simp only [edgeReaches_iff hnb hbands hmin hmax hfs, hfloor]
    exact ⟨min_le_left _ _, fun _ => min_le_right _ _, fun m hm hbound hreaches => by omega⟩
  rw [hbin, ← Int.natCast_floor_eq_floor hpos]
  omega

end Reals

/-- The comparison is between rationals, so it is the same for their real values. -/
theorem edgeReaches_realConfig (c : Config) (j m : Nat) : EdgeReaches (realConfig c) j m ↔ EdgeReaches c j m := by
  simp only [EdgeReaches, realConfig]
  norm_cast

theorem edgeBin_realConfig (c : Config) (j bound : Nat) : edgeBin (realConfig c) j bound = edgeBin c j bound := by
  have h : EdgeReaches (realConfig c) j = EdgeReaches c j := funext fun m => propext (edgeReaches_realConfig c j m)
  simp only [edgeBin_eq_findGreatest, h]

/-! ## The Hann window (R138) -/

section Hann

variable {K : Type} [Field K]

/-- The entry of R138 at `n`. -/
theorem hannWindow_getElem? (f : NumFns K) {nb n : Nat} (hn : n < nb) :
    (hannWindow f nb)[n]? = some (1 / 2 * (1 - f.cosTurn ((n : K) / ((nb - 1 : Nat) : K)))) := by
  simp [hannWindow, hn]

variable [LinearOrder K] {f : NumFns K} (hf : f.Laws) {nb : Nat}
include hf

theorem hannWindow_zero (hnb : 2 ≤ nb) : (hannWindow f nb)[0]? = some 0 := by
  rw [hannWindow_getElem? f (by omega), Nat.cast_zero, zero_div, hf.cosTurn_zero, sub_self, mul_zero]

variable [IsStrictOrderedRing K]

/-- The turns of two mirrored entries add to one, and the cosine is even with period one. -/
theorem hannWindow_mirror (hnb : 2 ≤ nb) {n : Nat} (hn : n < nb) : (hannWindow f nb)[n]? = (hannWindow f nb)[nb - 1 - n]? := by
  have hlast : ((nb - 1 : Nat) : K) ≠ 0 := Nat.cast_ne_zero.mpr (by omega)
  have hturn : ((nb - 1 - n : Nat) : K) / ((nb - 1 : Nat) : K) = -((n : K) / ((nb - 1 : Nat) : K)) + 1 := by
    rw [Nat.cast_sub (by omega)]
    field_simp
    ring
  rw [hannWindow_getElem? f hn, hannWindow_getElem? f (by omega), hturn, hf.cosTurn_add_one, hf.cosTurn_neg]

end Hann

/-- Settles O59: the generator by its formula, the window's last entry as the mirror of its first. -/
theorem generatedTablesAreTheFormulas : Obligations.GeneratedTablesAreTheFormulas := by
  refine ⟨fun c hnb hbands hmin hmax hfs => ⟨edgesGenerated_length c, edgesGenerated_nondecreasing hmin hmax, fun j hj => ?_⟩,
    fun c => ?_, fun K _ _ _ f nb hf hnb => ⟨by simp [hannWindow], hannWindow_zero hf hnb, ?_, fun n => hannWindow_mirror hf hnb⟩,
    fun nb n hn => ?_⟩
  · rw [edgesGenerated_getD c hj, edgeBin_eq_formula hnb hbands hmin hmax hfs]
    rfl
  · exact List.map_congr_left fun j _ => edgeBin_realConfig c j _
  · rw [← hannWindow_zero hf hnb, hannWindow_mirror hf hnb (by omega : 0 < nb), Nat.sub_zero]
  · rw [hannWindow_getElem? _ hn, mul_div_assoc]
    rfl

end Sys2Proof.Machine
end

section
/-!
A block scaled by `g` (R161 (g)): its spectrum and its band means are scaled by `g` wherever the numerics take `g` out of the square root,
and a shift of every level moves the tracker and the window with it. With `g = 0` the block is the silent one (R160).
-/

namespace Sys2Proof.Machine

variable {K : Type} [Field K]

/-! ## The spectrum and the band means of a scaled block (R139, R152, R153) -/

/-- The sums of R139 are linear in the samples; `turn` is the cosine or the sine. -/
theorem sumNums_zipIdx_scaled (g : K) (x : List K) (turn : Nat → K) :
    sumNums ((x.map fun y => g * y).zipIdx.map fun p => p.1 * turn p.2) = g * sumNums (x.zipIdx.map fun p => p.1 * turn p.2) := by
  rw [sumNums_eq_sum, sumNums_eq_sum, ← List.sum_map_mul_left, List.zipIdx_map, List.map_map]
  simp [Function.comp_def, mul_assoc]

theorem dftRe_scaled (f : NumFns K) (g : K) (x : List K) (nb k : Nat) : dftRe f (x.map fun y => g * y) nb k = g * dftRe f x nb k :=
  sumNums_zipIdx_scaled g x fun n => f.cosTurn ((k * n : Nat) / (nb : K))

theorem dftIm_scaled (f : NumFns K) (g : K) (x : List K) (nb k : Nat) : dftIm f (x.map fun y => g * y) nb k = g * dftIm f x nb k := by
  rw [dftIm, dftIm, sumNums_zipIdx_scaled g x fun n => f.sinTurn ((k * n : Nat) / (nb : K)), mul_neg]

theorem windowedBlock_scaled (c : ConfigOf K) (g : K) (blk : List K) :
    windowedBlock c (blk.map fun y => g * y) = (windowedBlock c blk).map fun y => g * y := by
  simp only [windowedBlock, List.zipWith_map_left, List.map_zipWith, mul_assoc]

theorem meanSlice_scaled (g : K) (mag : List K) (s : Nat × Nat) : meanSlice (mag.map fun y => g * y) s = g * meanSlice mag s := by
  rw [meanSlice, meanSlice, ← List.map_drop, ← List.map_take, sumNums_eq_sum, sumNums_eq_sum, List.sum_map_mul_left, List.map_id',
    mul_div_assoc]

theorem bandMeans_scaled (c : ConfigOf K) (g : K) (mag : List K) :
    bandMeans c (mag.map fun y => g * y) = (bandMeans c mag).map fun y => g * y := by
  simp only [bandMeans, List.map_map, Function.comp_def, meanSlice_scaled]

@[simp] theorem bandMeans_length (c : ConfigOf K) (mag : List K) : (bandMeans c mag).length = c.nBands := by simp [bandMeans]

variable [LinearOrder K]

@[simp] theorem bandLevels_length (f : NumFns K) (c : ConfigOf K) (blk : List K) : (bandLevels f c blk).length = c.nBands := by
  simp [bandLevels]

theorem bandLevels_getD (f : NumFns K) (c : ConfigOf K) (blk : List K) {i : Nat} (hi : i < c.nBands) :
    (bandLevels f c blk).getD i 0 = toDb f c.magFloor ((bandMeans c (rfftMag f c.nb (windowedBlock c blk))).getD i 0) := by
  simp [bandLevels, List.getD_eq_getElem?_getD, hi]

section Spectrum

variable [IsStrictOrderedRing K] {f : NumFns K} {g : K} (hsqrt : ∀ x, 0 ≤ x → f.sqrt (g * g * x) = g * f.sqrt x)
include hsqrt

theorem dftMag_scaled (x : List K) (nb k : Nat) : dftMag f (x.map fun y => g * y) nb k = g * dftMag f x nb k := by
  have hsum : 0 ≤ dftRe f x nb k * dftRe f x nb k + dftIm f x nb k * dftIm f x nb k :=
    add_nonneg (mul_self_nonneg _) (mul_self_nonneg _)
  rw [dftMag, dftMag, dftRe_scaled, dftIm_scaled, ← hsqrt _ hsum]
  congr 1
  ring

theorem rfftMag_scaled (nb : Nat) (x : List K) : rfftMag f nb (x.map fun y => g * y) = (rfftMag f nb x).map fun y => g * y := by
  rw [rfftMag, rfftMag, List.map_map]
  exact List.map_congr_left fun k _ => dftMag_scaled hsqrt x nb k

theorem bandMeans_of_scaled_block (c : ConfigOf K) (blk : List K) :
    bandMeans c (rfftMag f c.nb (windowedBlock c (blk.map fun y => g * y))) =
      (bandMeans c (rfftMag f c.nb (windowedBlock c blk))).map fun y => g * y := by
  rw [windowedBlock_scaled, rfftMag_scaled hsqrt, bandMeans_scaled]

end Spectrum

/-! ## The factors by which the numerics scale -/

section Factors

variable {f : NumFns K}

theorem scalesBy_one (hf : f.Laws) : ScalesBy f 1 :=
  ⟨fun x _ => by rw [one_mul, hf.log10_one, add_zero], fun x _ => by rw [one_mul, one_mul, one_mul]⟩

theorem scalesBy_ten (hf : f.Laws) : ScalesBy f 10 := by
  have hlog : f.log10 10 = 1 := by simpa using hf.log10_zpow 1
  refine ⟨fun x hx => by rw [hf.log10_ten_mul x hx, hlog], fun x hx => ?_⟩
  rw [← hf.sqrt_hundred_mul x hx]
  norm_num

variable [IsStrictOrderedRing K]

theorem ScalesBy.mul {g h : K} (hh0 : 0 < h) (hg : ScalesBy f g) (hh : ScalesBy f h) : ScalesBy f (g * h) := by
  obtain ⟨hglog, hgsqrt⟩ := hg
  obtain ⟨hhlog, hhsqrt⟩ := hh
  refine ⟨fun x hx => ?_, fun x hx => ?_⟩
  · rw [mul_assoc, hglog _ (mul_pos hh0 hx), hhlog x hx, hglog h hh0]
    ring
  · rw [mul_mul_mul_comm, mul_assoc, hgsqrt _ (by positivity), hhsqrt x hx, mul_assoc]

theorem ScalesBy.inv (hf : f.Laws) {g : K} (hg0 : 0 < g) (hg : ScalesBy f g) : ScalesBy f g⁻¹ := by
  obtain ⟨hlog, hsqrt⟩ := hg
  have hinv : 0 < g⁻¹ := inv_pos.mpr hg0
  have hlogInv : f.log10 g⁻¹ = -f.log10 g := by
    have h := hlog g⁻¹ hinv
    rw [mul_inv_cancel₀ hg0.ne', hf.log10_one] at h
    linarith
  refine ⟨fun x hx => ?_, fun x hx => ?_⟩
  · have h := hlog _ (mul_pos hinv hx)
    rw [mul_inv_cancel_left₀ hg0.ne'] at h
    linarith
  · have h := hsqrt (g⁻¹ * g⁻¹ * x) (by positivity)
    rw [show g * g * (g⁻¹ * g⁻¹ * x) = x by field_simp] at h
    rw [h, inv_mul_cancel_left₀ hg0.ne']

theorem scalesBy_ten_zpow (hf : f.Laws) (k : Int) : ScalesBy f (10 ^ k) := by
  have hten : (0 : K) < 10 := by norm_num
  induction k using Int.induction_on with
  | zero => exact zpow_zero (10 : K) ▸ scalesBy_one hf
  | succ k ih => exact zpow_add_one₀ hten.ne' (k : Int) ▸ ih.mul hten (scalesBy_ten hf)
  | pred k ih => exact zpow_sub_one₀ hten.ne' (-k : Int) ▸ ih.mul (inv_pos.mpr hten) ((scalesBy_ten hf).inv hf hten)

end Factors

/-- The exact functions scale by every positive factor (R161 (g)). -/
theorem scalesBy_exact {g : ℝ} (hg : 0 < g) : ScalesBy NumFns.exact g := by
  refine ⟨fun x hx => ?_, fun x hx => ?_⟩
  · exact (Real.logb_mul hg.ne' hx.ne').trans (add_comm _ _)
  · exact (Real.sqrt_mul (mul_self_nonneg g) x).trans (by rw [Real.sqrt_mul_self hg.le]; rfl)

/-! ## A shift of the levels (R155 to R157) -/

section Shift

theorem trackDb_of_floor_le {tp m rise rel dbFloor : K} (h : dbFloor ≤ track tp m rise rel) :
    trackDb tp m rise rel dbFloor = track tp m rise rel := max_eq_left h

theorem displayWindow_of_floor_le {tp headroom range dbFloor : K} (h : dbFloor ≤ tp + headroom - range) :
    displayWindow tp headroom range dbFloor = ⟨tp + headroom, tp + headroom - range⟩ := by
  rw [displayWindow, max_eq_left h]

/-- A level keeps its place in a window that moves with it (R130). -/
theorem norm01_shift (s d ceil floor : K) : norm01 (d + s) ⟨ceil + s, floor + s⟩ = norm01 d ⟨ceil, floor⟩ := by
  simp only [norm01, add_sub_add_right_eq_sub]

variable [IsStrictOrderedRing K] (s : K)

theorem maxNums_map_add {d : List K} (hd : d ≠ []) : maxNums (d.map fun x => x + s) = maxNums d + s := by
  induction d with
  | nil => exact absurd rfl hd
  | cons x d ih =>
    cases d with
    | nil => rfl
    | cons y d =>
      have ih := ih (List.cons_ne_nil _ _)
      simp only [List.map_cons, maxNums] at ih ⊢
      rw [ih, max_add_add_right]

theorem track_shift (tp m rise rel : K) : track (tp + s) (m + s) rise rel = track tp m rise rel + s := by
  simp only [track, gt_iff_lt, add_lt_add_iff_right, add_sub_add_right_eq_sub]
  split_ifs <;> ring

/-- Where neither the tracker nor the window is pinned, both move with the levels, and every target stays (R155, R156). -/
theorem saUpdate_shift (c : ConfigOf K) {d : List K} (hd : d ≠ []) (sa : SaState K)
    (hpin : ∀ x ∈ [track sa.tp (maxNums d) c.saRise c.saRelease, track sa.tp (maxNums d) c.saRise c.saRelease + s],
      c.saDbFloor ≤ x ∧ c.saDbFloor ≤ x + c.saHeadroomDb - c.saRangeDb) :
    saUpdate c (d.map fun x => x + s) { sa with tp := sa.tp + s } =
      { saUpdate c d sa with tp := (saUpdate c d sa).tp + s } := by
  obtain ⟨htp, hwin⟩ := hpin _ List.mem_cons_self
  obtain ⟨htp', hwin'⟩ := hpin _ (List.mem_cons_of_mem _ List.mem_cons_self)
  have htracked : saTracked c sa.tp d = track sa.tp (maxNums d) c.saRise c.saRelease := trackDb_of_floor_le htp
  have htracked' : saTracked c (sa.tp + s) (d.map fun x => x + s) = saTracked c sa.tp d + s := by
    rw [htracked, ← track_shift, ← maxNums_map_add s hd]
    exact trackDb_of_floor_le (by rwa [maxNums_map_add s hd, track_shift])
  have htarget (x : K) : saTarget c (saWindow c (saTracked c sa.tp d + s)) (x + s) = saTarget c (saWindow c (saTracked c sa.tp d)) x := by
    rw [htracked, saTarget, saTarget, saWindow, saWindow, displayWindow_of_floor_le hwin, displayWindow_of_floor_le hwin',
      ← norm01_shift s x, add_right_comm, add_sub_right_comm]
  simp only [saUpdate, htracked', List.zipWith_map_right, htarget]

end Shift

/-- Settles O22: the spectrum is linear in the block, the logarithm turns the factor into a shift, and the exact functions scale by every
positive factor, those of any record by the powers of ten. -/
theorem scalingABlockShiftsTheLevels : Obligations.ScalingABlockShiftsTheLevels := by
  refine ⟨?_, fun K _ _ _ c d sa s hd => saUpdate_shift s c hd sa, fun g hg => scalesBy_exact hg,
    fun c k => scalesBy_ten_zpow c.fns_laws k⟩
  intro K _ _ _ f c g blk i hc _ hi hg hscale mean hmean hmean'
  obtain ⟨hlog, hsqrt⟩ := hscale
  obtain ⟨-, -, -, -, -, -, -, hfloor, -⟩ := c.valid_iff.mp hc
  have hscaled : (bandMeans c (rfftMag f c.nb (windowedBlock c (blk.map fun x => g * x)))).getD i 0 = g * mean := by
    rw [bandMeans_of_scaled_block hsqrt]
    simp [mean, List.getD_eq_getElem?_getD, hi]
  rw [bandLevels_getD f c _ hi, bandLevels_getD f c _ hi, hscaled, toDb_of_le hmean', toDb_of_le hmean,
    hlog mean (hfloor.trans_le hmean), mul_add]

end Sys2Proof.Machine
end

section
/-!
`SA.PROCESS` on a block of the required length (R155 to R158): its whole effect, entry by entry, and the range of the returned bars
(R159).
-/

namespace Sys2Proof.Machine

section Update

variable {K : Type} [Field K] [LinearOrder K]

theorem saUpdate_cur_length {c : ConfigOf K} {d : List K} {sa : SaState K} (hcur : sa.cur.length = c.nBands) (hd : d.length = c.nBands) :
    (saUpdate c d sa).cur.length = c.nBands := by
  rw [saUpdate, List.length_zipWith, hcur, hd, min_self]

/-- Each bar is smoothed toward the target of its own band, in the window of the updated tracker (R155 to R157). -/
theorem saUpdate_cur_getElem? {c : ConfigOf K} {d : List K} {sa : SaState K} {i : Nat} (hcur : i < sa.cur.length) (hd : i < d.length) :
    (saUpdate c d sa).cur[i]? = some (smooth (sa.cur.getD i 0) (saTarget c (saWindow c (saTracked c sa.tp d)) (d.getD i 0))
      c.saAttack c.saDecay) := by
  simp [saUpdate, hcur, hd]

variable [IsStrictOrderedRing K] [FloorRing K]

theorem rne_of_lt_half {v : K} (h0 : 0 ≤ v) (h1 : v < 1 / 2) : rne v = 0 := by
  have hfloor : ⌊v⌋ = 0 := Int.floor_eq_zero_iff.mpr ⟨h0, by linarith⟩
  rw [rne, hfloor, Int.cast_zero, sub_zero, if_pos h1]

/-- Integers round to themselves, so rounding does not leave a range of integers. -/
theorem rne_mem {v : K} {n : Nat} (h : 0 ≤ v ∧ v ≤ n) : 0 ≤ rne v ∧ rne v ≤ n := by
  obtain ⟨h0, h1⟩ := h
  have hlow := rne_mono h0
  have hhigh := rne_mono h1
  rw [← Nat.cast_zero, rne_natCast] at hlow
  rw [rne_natCast] at hhigh
  exact ⟨hlow, hhigh⟩

end Update

/-- A block of the required length in a unit without a fault is processed (R272). -/
theorem exec_saProcess_of_fits {blk : List Number} {s : State} (hfault : s.sa.fault = false) (hblk : blk.length = s.cfg.nb) :
    exec (.saProcess blk) s = .next { s with
      sa := saUpdate s.cfg (bandLevels s.cfg.fns s.cfg blk) s.sa
      result := .bars (saBars (saUpdate s.cfg (bandLevels s.cfg.fns s.cfg blk) s.sa)) } := by
  have heffect : saEffect s.cfg.fns blk s.cfg s.sa = (saUpdate s.cfg (bandLevels s.cfg.fns s.cfg blk) s.sa,
      .bars (saBars (saUpdate s.cfg (bandLevels s.cfg.fns s.cfg blk) s.sa))) := by
    simp only [saEffect, hfault, blockFits_eq_true.mpr hblk]
  rw [exec_saProcess_eq, heffect]

/-- Settles O23: the operation is `saUpdate` on the band levels, of which there is at least one. -/
theorem saProcessUpdatesTrackerAndBars : Obligations.SaProcessUpdatesTrackerAndBars := by
  intro blk s hc hfault hblk hcur
  obtain ⟨⟨-, -, hbands, -⟩, -⟩ := s.cfg.valid_iff.mp hc
  have hlen := bandLevels_length s.cfg.fns s.cfg blk
  have hne : bandLevels s.cfg.fns s.cfg blk ≠ [] := List.ne_nil_of_length_pos (hlen ▸ hbands)
  exact ⟨_, _, _, _, exec_saProcess_of_fits hfault hblk, rfl, maxNums_mem hne, fun x hx => le_maxNums hx, rfl, rfl, rfl,
    saUpdate_cur_length hcur hlen, fun i hi => saUpdate_cur_getElem? (hcur ▸ hi) (hlen ▸ hi)⟩

/-- Settles O24: the updated bars are in the invariant's range, and rounding keeps them there. -/
theorem saBarsStayInRange : Obligations.SaBarsStayInRange := by
  intro blk s hinv hfault hblk
  obtain ⟨hc, hsa, -⟩ := hinv
  obtain ⟨-, hlen, hrange⟩ := saUpdate_inv hc hsa (bandLevels_length s.cfg.fns s.cfg blk)
  refine ⟨_, _, exec_saProcess_of_fits hfault hblk, rfl, ?_, fun b hb => ?_⟩
  · rw [saBars, List.length_map, hlen]
  · obtain ⟨x, hx, rfl⟩ := List.mem_map.mp hb
    exact rne_mem (hrange x hx)

end Sys2Proof.Machine
end

section
/-!
Silence (R160): a block of zeros has every level at that of the magnitude floor, which is below the window, so the tracker falls and every
bar shrinks by the decay rate.
-/

namespace Sys2Proof.Machine

variable {K : Type} [Field K] [LinearOrder K]

theorem maxNums_replicate {n : Nat} (hn : n ≠ 0) (v : K) : maxNums (List.replicate n v) = v :=
  List.eq_of_mem_replicate (maxNums_mem (List.replicate_eq_nil_iff _ |>.not.mpr hn))

theorem smooth_zero {cur : K} (h : 0 ≤ cur) (attack decay : K) : smooth cur 0 attack decay = (1 - decay) * cur := by
  rw [smooth]
  split_ifs with hcur
  · rw [le_antisymm hcur h]
    ring
  · ring

theorem dbFloor_le_saTracked (c : ConfigOf K) (tp : K) (d : List K) : c.saDbFloor ≤ saTracked c tp d := dbFloor_le_trackDb ..

variable [IsStrictOrderedRing K]

/-- The silent block is itself scaled by zero, so its band means are zero (R152 to R154). -/
theorem bandLevels_silent {f : NumFns K} (hf : f.Laws) (c : ConfigOf K) :
    bandLevels f c (List.replicate c.nb 0) = List.replicate c.nBands (toDb f c.magFloor 0) := by
  have hsqrt : ∀ x, 0 ≤ x → f.sqrt (0 * 0 * x) = 0 * f.sqrt x := fun x _ => by simp [hf.sqrt_zero]
  have hmeans := bandMeans_of_scaled_block hsqrt c (List.replicate c.nb 0)
  simp only [zero_mul, List.map_const', List.length_replicate, bandMeans_length] at hmeans
  rw [bandLevels, hmeans, List.map_replicate]

/-- Levels at or below the dB floor are at the bottom of the window, wherever the tracker is (R155, R156). -/
theorem saTarget_of_le_dbFloor {c : ConfigOf K} (hc : c.Valid) {tp v : K} (htp : c.saDbFloor ≤ tp) (hv : v ≤ c.saDbFloor) :
    saTarget c (saWindow c tp) v = 0 := by
  obtain ⟨-, -, -, hheadroom, hrange, -⟩ := c.valid_iff.mp hc
  obtain ⟨-, hwidth, -⟩ := windowWidthIsPositive K tp c.saHeadroomDb c.saRangeDb c.saDbFloor htp hheadroom hrange
  rw [saTarget, saWindow, norm01_of_le_floor (hv.trans (le_max_right _ _)) (sub_pos.mp hwidth), zero_mul]

/-- Where all levels are at or below the dB floor the tracker falls and every bar decays (R155 to R157). -/
theorem saUpdate_of_le_dbFloor {c : ConfigOf K} (hc : c.Valid) {sa : SaState K} (h : sa.Inv c) {v : K} (hv : v ≤ c.saDbFloor) :
    saUpdate c (List.replicate c.nBands v) sa = { sa with
      tp := max (sa.tp + c.saRelease * (v - sa.tp)) c.saDbFloor
      cur := sa.cur.map fun x => (1 - c.saDecay) * x } := by
  obtain ⟨htp, hlen, hrange⟩ := h
  obtain ⟨⟨-, -, hbands, -⟩, -⟩ := c.valid_iff.mp hc
  have htracked : saTracked c sa.tp (List.replicate c.nBands v) = max (sa.tp + c.saRelease * (v - sa.tp)) c.saDbFloor := by
    rw [saTracked, maxNums_replicate (by omega), trackDb, track_of_le (hv.trans htp)]
  have hbar {x : K} (hx : x ∈ sa.cur) :
      smooth x (saTarget c (saWindow c (saTracked c sa.tp (List.replicate c.nBands v))) v) c.saAttack c.saDecay =
        (1 - c.saDecay) * x := by
    obtain ⟨hx0, -⟩ := hrange x hx
    rw [saTarget_of_le_dbFloor hc (dbFloor_le_saTracked ..) hv, smooth_zero hx0]
  have hcur : (saUpdate c (List.replicate c.nBands v) sa).cur = sa.cur.map fun x => (1 - c.saDecay) * x := by
    refine List.ext_getElem (by simp [saUpdate, hlen]) fun i hi hi' => ?_
    simp only [saUpdate, List.getElem_zipWith, List.getElem_replicate, List.getElem_map]
    exact hbar (List.getElem_mem _)
  rw [← htracked, ← hcur]
  rfl

/-! ## The machine on silent blocks -/

theorem toDb_zero_of_saDefaults {c : Config} (h : SaDefaults c) : toDb c.fns c.magFloor 0 = -200 := by
  obtain ⟨hfloor, -⟩ := h
  rw [hfloor, toDb_of_ge (by positivity), c.fns_laws.log10_defaultFloor]
  norm_num

/-- Settles O25: every level is -200 dB, and the defaults give the constants. -/
theorem saSilentBlockDecays : Obligations.SaSilentBlockDecays := by
  intro s hinv hdefaults hfault
  obtain ⟨hc, hsa, -⟩ := hinv
  have ⟨_, hdbFloor, hrelease, hdecay, _⟩ := hdefaults
  have htp : s.sa.tp + 5 / 1000 * (-200 - s.sa.tp) = s.sa.tp - 5 / 1000 * (200 + s.sa.tp) := by ring
  have hkeep : (1 - 3 / 10 : Number) = 7 / 10 := by norm_num
  have hupdate : saUpdate s.cfg (bandLevels s.cfg.fns s.cfg (List.replicate s.cfg.nb 0)) s.sa = { s.sa with
      tp := max (s.sa.tp - 5 / 1000 * (200 + s.sa.tp)) (-60), cur := s.sa.cur.map fun x => 7 / 10 * x } := by
    rw [bandLevels_silent s.cfg.fns_laws, toDb_zero_of_saDefaults hdefaults,
      saUpdate_of_le_dbFloor hc hsa (by rw [hdbFloor]; norm_num), hdbFloor, hrelease, hdecay, htp, hkeep]
  rw [exec_saProcess_of_fits hfault List.length_replicate, hupdate, saBars, List.map_map]
  rfl

/-- One silent block as the next input. -/
theorem step_silent {s : State} {rest : List Input} (hinv : s.Inv) (hdefaults : SaDefaults s.cfg) (hfault : s.sa.fault = false)
    (hinbox : s.inbox = .word (encode s.cfg.wire (.saProcess (List.replicate s.cfg.nb 0))) :: rest) :
    ∃ t : State, step s = .next t ∧ t.Inv ∧ t.cfg = s.cfg ∧ t.sa.fault = false ∧ t.inbox = rest ∧
      t.sa.cur = s.sa.cur.map (fun x => 7 / 10 * x) ∧ t.result = .bars (saBars t.sa) := by
  have ⟨hvalid, _⟩ := hinv
  obtain ⟨hkeeps, -⟩ := stepKeepsTheInvariant
  have hdecode := decodeOfEncode Number s.cfg s.decPos (.saProcess (List.replicate s.cfg.nb 0)) rfl rfl
  have hstep := stepRunsTheDecodedInstruction s _ rest _ hvalid hinbox hdecode
  rw [saSilentBlockDecays { s with inbox := rest } hinv hdefaults hfault] at hstep
  refine ⟨_, hstep, hkeeps _ _ hinv hstep, rfl, hfault, rfl, rfl, ?_⟩
  rw [saBars, List.map_map]
  rfl

/-- `n + 1` silent blocks multiply every bar by `0.7^(n+1)`; the last one returns the rounded bars (R160). -/
theorem run_silent (n : Nat) {s : State} {rest : List Input} (hinv : s.Inv) (hdefaults : SaDefaults s.cfg) (hfault : s.sa.fault = false)
    (hinbox : s.inbox = List.replicate (n + 1) (.word (encode s.cfg.wire (.saProcess (List.replicate s.cfg.nb 0)))) ++ rest) :
    ∃ t : State, Sys2Proof.core.run (n + 1) s = .next t ∧ t.inbox = rest ∧
      t.sa.cur = s.sa.cur.map (fun x => (7 / 10) ^ (n + 1) * x) ∧ t.result = .bars (saBars t.sa) := by
  induction n generalizing s with
  | zero =>
    obtain ⟨t, hstep, -, -, -, hrest, hcur, hresult⟩ := step_silent hinv hdefaults hfault hinbox
    exact ⟨t, run_succ hstep, hrest, by simpa using hcur, hresult⟩
  | succ n ih =>
    obtain ⟨u, hstep, hinv', hcfg, hfault', hrest, hcur, -⟩ := step_silent hinv hdefaults hfault hinbox
    obtain ⟨t, hrun, hrest', hcur', hresult⟩ := ih hinv' (hcfg ▸ hdefaults) hfault' (hcfg ▸ hrest)
    refine ⟨t, (run_succ hstep).trans hrun, hrest', ?_, hresult⟩
    rw [hcur', hcur, List.map_map]
    simp only [Function.comp_def, ← mul_assoc, ← pow_succ]

/-- Settles O26: `11 * 0.7^9` is below one half. -/
theorem saSilenceClearsTheBars : Obligations.SaSilenceClearsTheBars := by
  intro s rest hinv hdefaults hfault hinbox
  obtain ⟨t, hrun, hrest, hcur, hresult⟩ := run_silent 8 hinv hdefaults hfault hinbox
  refine ⟨t, hrun, hrest, ?_⟩
  obtain ⟨-, ⟨-, hlen, hrange⟩, -⟩ := hinv
  obtain ⟨-, -, -, -, hmax⟩ := hdefaults
  have hzero : ∀ x ∈ s.sa.cur, rne ((7 / 10) ^ 9 * x) = 0 := fun x hx => by
    obtain ⟨h0, h1⟩ := hrange x hx
    rw [hmax] at h1
    push_cast at h1
    exact rne_of_lt_half (by positivity) (by linarith)
  rw [hresult, saBars, hcur, List.map_map]
  congr 1
  exact (List.map_congr_left hzero).trans (by rw [List.map_const', hlen])

end Sys2Proof.Machine
end

section
/-!
`LM.PROCESS` on blocks of the required length (R172 to R177): its whole effect, the range of the returned columns (R178), and the
symmetry of the two channels (R180 (g)).
-/

namespace Sys2Proof.Machine

/-! ## The effect on fitting blocks -/

/-- The sum over a channel as the sum over its sample indices (R172). -/
theorem channelLevel_eq {K : Type} [Field K] [LinearOrder K] (f : NumFns K) {c : ConfigOf K} {x : List K} (hx : x.length = c.nb) :
    channelLevel f c x = 20 * f.log10 (max (f.sqrt ((∑ n ∈ Finset.range c.nb, x.getD n 0 ^ 2) / (c.nb : K))) c.magFloor) := by
  have hsum : sumNums (x.map fun v => v * v) = ∑ n ∈ Finset.range c.nb, x.getD n 0 ^ 2 :=
    sumNums_eq_sum_range (by rw [List.length_map, hx]) fun i hi => by
      rw [List.length_map] at hi
      rw [List.getElem_map, List.getD_eq_getElem _ _ hi, sq]
  rw [channelLevel, toDb, rmsOf, hsum]

/-- Two blocks of the required length in a unit without a fault are processed (R272). -/
theorem exec_lmProcess_of_fits {left right : List Number} {s : State} (hfault : s.lm.fault = false) (hleft : left.length = s.cfg.nb)
    (hright : right.length = s.cfg.nb) :
    exec (.lmProcess left right) s = .next { s with
      lm := lmUpdate s.cfg (channelLevel s.cfg.fns s.cfg left) (channelLevel s.cfg.fns s.cfg right) s.lm
      result := lmLevels s.cfg
        (lmUpdate s.cfg (channelLevel s.cfg.fns s.cfg left) (channelLevel s.cfg.fns s.cfg right) s.lm) } := by
  have heffect : lmEffect s.cfg.fns left right s.cfg s.lm =
      (lmUpdate s.cfg (channelLevel s.cfg.fns s.cfg left) (channelLevel s.cfg.fns s.cfg right) s.lm,
        lmLevels s.cfg (lmUpdate s.cfg (channelLevel s.cfg.fns s.cfg left) (channelLevel s.cfg.fns s.cfg right) s.lm)) := by
    simp only [lmEffect, hfault, blockFits_eq_true.mpr hleft, blockFits_eq_true.mpr hright, Bool.and_self]
  rw [exec_lmProcess_eq, heffect]

/-- Settles O27: the operation is `lmUpdate` on the two channel levels. -/
theorem lmProcessUpdatesTrackerAndColumns : Obligations.LmProcessUpdatesTrackerAndColumns := by
  intro left right s hfault hleft hright
  have hexec := exec_lmProcess_of_fits hfault hleft hright
  rw [channelLevel_eq s.cfg.fns hleft, channelLevel_eq s.cfg.fns hright] at hexec
  exact ⟨_, hexec, rfl, rfl, rfl⟩

theorem lmOut_mem {K : Type} [Field K] [LinearOrder K] [FloorRing K] (c : ConfigOf K) (v : K) : 0 ≤ lmOut c v ∧ lmOut c v ≤ c.vuMax :=
  clampInt_mem (Int.natCast_nonneg _)

/-- Settles O28: each of the four columns is clamped. -/
theorem lmColumnsStayInRange : Obligations.LmColumnsStayInRange := by
  intro left right s hfault hleft hright
  exact ⟨_, _, _, _, _, exec_lmProcess_of_fits hfault hleft hright, rfl, lmOut_mem .., lmOut_mem .., lmOut_mem .., lmOut_mem ..⟩

/-! ## The symmetry of the channels -/

/-- The two channels' columns exchanged; the tracker is shared (R173). -/
def LmState.swap {K : Type} (lm : LmState K) : LmState K :=
  { lm with rms := ⟨lm.rms.right, lm.rms.left⟩, peak := ⟨lm.peak.right, lm.peak.left⟩ }

/-- The channels meet only in the larger of their levels, which does not depend on their order (R173). -/
theorem lmUpdate_swap {K : Type} [Field K] [LinearOrder K] (c : ConfigOf K) (dLeft dRight : K) (lm : LmState K) :
    lmUpdate c dRight dLeft lm.swap = (lmUpdate c dLeft dRight lm).swap := by
  have htracked : lmTracked c lm.tp dRight dLeft = lmTracked c lm.tp dLeft dRight := by
    rw [lmTracked, lmTracked, max_comm]
  simp only [lmUpdate, LmState.swap, htracked]

/-- Settles O30: the update commutes with the exchange, and the result is read channel by channel. -/
theorem lmChannelsInterchange : Obligations.LmChannelsInterchange := by
  intro left right s hfault hleft hright
  have hswap := exec_lmProcess_of_fits (s := { s with lm := s.lm.swap }) hfault hright hleft
  rw [lmUpdate_swap] at hswap
  exact ⟨_, _, _, _, _, _, exec_lmProcess_of_fits hfault hleft hright, hswap, rfl, rfl, rfl⟩

end Sys2Proof.Machine
end

section
/-!
Silence in the level meter (R179): both channels are at the level of the magnitude floor, which is below the window, so the tracker
falls and every column moves toward 0.
-/

namespace Sys2Proof.Machine

variable {K : Type} [Field K] [LinearOrder K]

/-- A target of 0 is below a positive peak, which drops, and not below any other, which attacks (R176). -/
theorem lmPeakNext_zero (c : ConfigOf K) (peak : K) :
    lmPeakNext c peak 0 = if 0 < peak then peak - c.lmPeakDrop * c.vuMax else (1 - c.lmPeakAttack) * peak := by
  rcases lt_or_ge 0 peak with hpos | hneg
  · rw [lmPeakNext, if_neg (not_le.mpr hpos), if_pos hpos]
  · rw [lmPeakNext, if_pos hneg, if_neg (not_lt.mpr hneg)]
    ring

theorem channelLevel_silent {f : NumFns K} (hf : f.Laws) (c : ConfigOf K) :
    channelLevel f c (List.replicate c.nb 0) = toDb f c.magFloor 0 := by
  have hrms : rmsOf f c (List.replicate c.nb 0) = 0 := by
    rw [rmsOf, List.map_replicate, mul_zero, sumNums_eq_sum, List.sum_replicate, smul_zero, zero_div, hf.sqrt_zero]
  rw [channelLevel, hrms]

variable [IsStrictOrderedRing K]

/-- Levels at or below the dB floor are at the bottom of the window, wherever the tracker is (R173, R174). -/
theorem lmTarget_of_le_dbFloor {c : ConfigOf K} (hc : c.Valid) {tp v : K} (htp : c.lmDbFloor ≤ tp) (hv : v ≤ c.lmDbFloor) :
    lmTarget c (lmWindow c tp) v = 0 := by
  obtain ⟨-, -, -, -, -, hheadroom, hrange, -⟩ := c.valid_iff.mp hc
  obtain ⟨-, hwidth, -⟩ := windowWidthIsPositive K tp c.lmHeadroomDb c.lmRangeDb c.lmDbFloor htp hheadroom hrange
  rw [lmTarget, lmWindow, norm01_of_le_floor (hv.trans (le_max_right _ _)) (sub_pos.mp hwidth), zero_mul]

/-- Where both levels are at or below the dB floor the tracker falls and both targets are 0 (R173 to R176). -/
theorem lmUpdate_of_le_dbFloor {c : ConfigOf K} (hc : c.Valid) {lm : LmState K} (h : lm.Inv c) {v : K} (hv : v ≤ c.lmDbFloor) :
    lmUpdate c v v lm = { lm with
      tp := max (lm.tp + c.lmRelease * (v - lm.tp)) c.lmDbFloor
      rms := ⟨(1 - c.lmRmsDecay) * lm.rms.left, (1 - c.lmRmsDecay) * lm.rms.right⟩
      peak := ⟨lmPeakNext c lm.peak.left 0, lmPeakNext c lm.peak.right 0⟩ } := by
  obtain ⟨htp, ⟨hleft, -⟩, ⟨hright, -⟩, -⟩ := h
  have htracked : lmTracked c lm.tp v v = max (lm.tp + c.lmRelease * (v - lm.tp)) c.lmDbFloor := by
    rw [lmTracked, max_self, trackDb, track_of_le (hv.trans htp)]
  have htarget : lmTarget c (lmWindow c (lmTracked c lm.tp v v)) v = 0 :=
    lmTarget_of_le_dbFloor hc (dbFloor_le_trackDb ..) hv
  rw [← htracked]
  simp only [lmUpdate, htarget, lmRmsNext, smooth_zero hleft, smooth_zero hright]

/-! ## The machine on silent blocks -/

theorem toDb_zero_of_lmDefaults {c : Config} (h : LmDefaults c) : toDb c.fns c.magFloor 0 = -200 := by
  obtain ⟨-, -, hdb⟩ := toDbIsMonotoneAndBounded
  obtain ⟨-, -, hzero, -⟩ := hdb Number c.fns c.fns_laws
  obtain ⟨hfloor, -⟩ := h
  rw [hfloor, hzero]

theorem lmPeakNext_zero_of_lmDefaults {c : Config} (h : LmDefaults c) (peak : Number) :
    lmPeakNext c peak 0 = if 0 < peak then peak - 424 / 1000 else 5 / 100 * peak := by
  obtain ⟨-, -, -, -, hattack, hdrop, hmax⟩ := h
  rw [lmPeakNext_zero, hattack, hdrop, hmax]
  norm_num

/-- Settles O29: both levels are -200 dB, and the defaults give the constants. -/
theorem lmSilentBlockDecays : Obligations.LmSilentBlockDecays := by
  intro s hinv hdefaults hfault
  obtain ⟨hc, -, hlm, -⟩ := hinv
  have ⟨_, hdbFloor, hrelease, hdecay, _⟩ := hdefaults
  have htp : s.lm.tp + 5 / 1000 * (-200 - s.lm.tp) = s.lm.tp - 5 / 1000 * (200 + s.lm.tp) := by ring
  have hkeep : (1 - 25 / 100 : Number) = 75 / 100 := by norm_num
  have hlevel : channelLevel s.cfg.fns s.cfg (List.replicate s.cfg.nb 0) = -200 := by
    rw [channelLevel_silent s.cfg.fns_laws, toDb_zero_of_lmDefaults hdefaults]
  have hfits : (List.replicate s.cfg.nb (0 : Number)).length = s.cfg.nb := List.length_replicate
  have hexec := exec_lmProcess_of_fits hfault hfits hfits
  rw [hlevel, lmUpdate_of_le_dbFloor hc hlm (by rw [hdbFloor]; norm_num)] at hexec
  refine ⟨_, hexec, ?_, ?_, lmPeakNext_zero_of_lmDefaults hdefaults _, lmPeakNext_zero_of_lmDefaults hdefaults _⟩
  · rw [hdbFloor, hrelease, htp]
  · rw [hdecay, hkeep]

end Sys2Proof.Machine
end

section
/-!
The trace of a block (R191 to R193): the trigger by cases, the segment entry by entry, and the interpolation as one formula, which at
whole indices leaves the next entry out.
-/

namespace Sys2Proof.Machine

variable {K : Type}

/-! ## The trigger (R191) -/

section Trigger

variable [Field K] [LinearOrder K]

theorem risesAt_iff {blk : List K} {i : Nat} : risesAt blk i = true ↔ Crossing blk i := by
  simp [risesAt, Crossing]

/-- Everything the trigger search can answer (R191). -/
theorem triggerIndex_cases (c : ConfigOf K) (blk : List K) :
    (triggerIndex c blk = 0 ∧ ∀ i, 1 ≤ i → i < c.nb / 4 → ¬ Crossing blk i) ∨
    (1 ≤ triggerIndex c blk ∧ triggerIndex c blk < c.nb / 4 ∧ Crossing blk (triggerIndex c blk) ∧
      ∀ i, 1 ≤ i → i < triggerIndex c blk → ¬ Crossing blk i) := by
  cases hfind : (List.range' 1 (c.nb / 4 - 1)).find? (risesAt blk) with
  | none =>
    refine .inl ⟨by rw [triggerIndex, hfind, Option.getD_none], fun i hlow hhigh => ?_⟩
    rw [← risesAt_iff]
    exact List.find?_eq_none.mp hfind i (List.mem_range'_1.mpr ⟨hlow, by omega⟩)
  | some trig =>
    have htrig : triggerIndex c blk = trig := by rw [triggerIndex, hfind, Option.getD_some]
    obtain ⟨hrises, hmem, hfirst⟩ := List.find?_range'_eq_some.mp hfind
    obtain ⟨hlow, hhigh⟩ := List.mem_range'_1.mp hmem
    refine .inr (htrig ▸ ⟨hlow, by omega, risesAt_iff.mp hrises, fun i hi hi' => ?_⟩)
    rw [← risesAt_iff, Bool.not_eq_true, ← Bool.not_eq_true']
    exact hfirst i hi hi'

/-- The trigger is early enough for half a block after it (R192). -/
theorem triggerIndex_add_half_le (c : ConfigOf K) (blk : List K) : triggerIndex c blk + c.nb / 2 ≤ c.nb := by
  rcases triggerIndex_cases c blk with ⟨h, -⟩ | ⟨-, h, -⟩ <;> omega

end Trigger

/-! ## The segment (R192) -/

section Segment

variable {c : ConfigOf K} {blk : List K} {trig : Nat} (hblk : blk.length = c.nb) (htrig : trig + c.nb / 2 ≤ c.nb)
include hblk htrig

theorem halfBlock_length : ((blk.drop trig).take (c.nb / 2)).length = c.nb / 2 := by
  rw [List.length_take, List.length_drop]
  omega

variable [Field K]

/-- Half a block from the trigger fits into the block, so the cut at the block's end removes nothing. -/
theorem segmentOf_eq :
    segmentOf c blk trig = (blk.drop trig).take (c.nb / 2) ++ List.replicate (c.scopeCols - c.nb / 2) 0 := by
  simp only [segmentOf, min_eq_left htrig, Nat.add_sub_cancel_left, halfBlock_length hblk htrig]

theorem segmentOf_length : (segmentOf c blk trig).length = max (c.nb / 2) c.scopeCols := by
  rw [segmentOf_eq hblk htrig, List.length_append, halfBlock_length hblk htrig, List.length_replicate]
  omega

theorem segmentOf_getD (k : Nat) :
    (segmentOf c blk trig).getD k 0 = if k < c.nb / 2 then blk.getD (trig + k) 0 else 0 := by
  have hlen := halfBlock_length hblk htrig
  rw [segmentOf_eq hblk htrig]
  split_ifs with hk
  · rw [List.getD_append _ _ _ _ (hlen.symm ▸ hk)]
    simp [List.getD_eq_getElem?_getD, hk]
  · rw [List.getD_append_right _ _ _ _ (hlen.symm ▸ not_lt.mp hk)]
    simp

end Segment

/-! ## The resampling (R193) -/

variable [Field K]

theorem resamplePos_eq (cols len j : Nat) :
    resamplePos cols len j = if cols = 1 then (0 : K) else (j : K) * ((len - 1 : Nat) : K) / ((cols - 1 : Nat) : K) := by
  rw [resamplePos, Nat.cast_mul]

variable [LinearOrder K] [FloorRing K]

theorem traceOf_length (c : ConfigOf K) (blk : List K) : (traceOf c blk).length = c.scopeCols := by
  simp [traceOf, resample]

theorem resample_getElem? (c : ConfigOf K) (seg : List K) {j : Nat} (hj : j < c.scopeCols) :
    (resample c seg)[j]? = some (interpolate seg (resamplePos c.scopeCols seg.length j)) := by
  simp [resample, hj]

/-- At a whole index the weight of the next entry is zero, so the two cases of R193 are one formula. -/
theorem interpolate_eq (seg : List K) {pos : K} (hpos : 0 ≤ pos) :
    interpolate seg pos =
      seg.getD ⌊pos⌋₊ 0 * (1 - Int.fract pos) + seg.getD (⌊pos⌋₊ + 1) 0 * Int.fract pos := by
  have hfr : pos - (⌊pos⌋₊ : K) = Int.fract pos := by rw [natCast_floor_eq_intCast_floor hpos, Int.self_sub_floor]
  rw [interpolate, Int.floor_toNat, hfr]
  split_ifs with h
  · rw [h, sub_zero, mul_one, mul_zero, add_zero]
  · rfl

theorem resamplePos_nonneg [IsStrictOrderedRing K] (cols len j : Nat) : (0 : K) ≤ resamplePos cols len j := by
  rw [resamplePos]
  split_ifs <;> positivity

/-- Settles O31: the position of R193 splits into its floor and its fractional part. -/
theorem traceIsTheTriggeredResampling : Obligations.TraceIsTheTriggeredResampling := by
  intro K _ _ _ _ c blk _ hblk
  have htrig := triggerIndex_add_half_le c blk
  refine ⟨triggerIndex c blk, triggerIndex_cases c blk, traceOf_length c blk, ?_⟩
  intro j hj seg pos
  have hseg (k : Nat) : (segmentOf c blk (triggerIndex c blk)).getD k 0 = seg k := segmentOf_getD hblk htrig k
  have hpos : resamplePos c.scopeCols (segmentOf c blk (triggerIndex c blk)).length j = pos := by
    rw [segmentOf_length hblk htrig, resamplePos_eq]
  have hnonneg : 0 ≤ pos := hpos ▸ resamplePos_nonneg ..
  refine ⟨⌊pos⌋₊, Int.fract pos, ?_, Int.fract_nonneg pos, Int.fract_lt_one pos, ?_⟩
  · rw [natCast_floor_eq_intCast_floor hnonneg, Int.floor_add_fract]
  · rw [traceOf, resample_getElem? c _ hj, hpos, interpolate_eq _ hnonneg, hseg, hseg]

end Sys2Proof.Machine
end

section
/-!
`WT.PROCESS` on a block of the required length (R194 to R196): its whole effect, and the range of the returned positions (R198).
-/

namespace Sys2Proof.Machine

section Update

variable {K : Type} [Field K] [LinearOrder K]

/-- The peak is the absolute value of a point (R194). -/
theorem peakOf_mem {y : List K} (hy : y ≠ []) : ∃ x ∈ y, peakOf y = |x| := by
  have hne : (y.map fun v => |v|) ≠ [] := mt List.map_eq_nil_iff.mp hy
  obtain ⟨x, hx, heq⟩ := List.mem_map.mp (maxNums_mem hne)
  exact ⟨x, hx, heq.symm⟩

theorem abs_le_peakOf {y : List K} {x : K} (hx : x ∈ y) : |x| ≤ peakOf y := le_maxNums (List.mem_map_of_mem hx)

variable [FloorRing K]

theorem positionOf_mem (c : ConfigOf K) (tp y : K) : 0 ≤ positionOf c tp y ∧ positionOf c tp y ≤ c.maxY :=
  clampInt_mem (Int.natCast_nonneg _)

theorem trunc_of_nonneg {v : K} (h : 0 ≤ v) : trunc v = ⌊v⌋ := if_pos h

theorem clampInt_of_mem {v lo hi : Int} (hlo : lo ≤ v) (hhi : v ≤ hi) : clampInt v lo hi = v := by
  rw [clampInt, min_eq_right hhi, max_eq_right hlo]

variable [IsStrictOrderedRing K]

/-- The normalised point is mapped into `[0, MAX_Y]`, so truncation is the floor and the last clamp changes nothing (R196). -/
theorem positionOf_eq_floor (c : ConfigOf K) (tp y : K) :
    positionOf c tp y = ⌊(clamp (y / tp) (-1) 1 + 1) / 2 * (c.maxY : K)⌋ := by
  obtain ⟨hlow, hhigh⟩ := clamp_mem (v := y / tp) (neg_le_self zero_le_one)
  have hfrac : 0 ≤ (clamp (y / tp) (-1) 1 + 1) / 2 := by linarith
  have hnonneg : 0 ≤ (clamp (y / tp) (-1) 1 + 1) / 2 * (c.maxY : K) := by positivity
  have hle : (clamp (y / tp) (-1) 1 + 1) / 2 * (c.maxY : K) ≤ c.maxY :=
    mul_le_of_le_one_left c.maxY.cast_nonneg (by linarith)
  rw [positionOf, trunc_of_nonneg hnonneg, clampInt_of_mem (Int.floor_nonneg.mpr hnonneg)]
  exact (Int.floor_le_floor hle).trans_eq (Int.floor_natCast _)

end Update

/-- A block of the required length in a unit without a fault is processed (R272). -/
theorem exec_wtProcess_of_fits {blk : List Number} {s : State} (hfault : s.wt.fault = false) (hblk : blk.length = s.cfg.nb) :
    exec (.wtProcess blk) s = .next { s with
      wt := { s.wt with tp := wtTracked s.cfg s.wt.tp (traceOf s.cfg blk) }
      result := .trace ((traceOf s.cfg blk).map (positionOf s.cfg (wtTracked s.cfg s.wt.tp (traceOf s.cfg blk)))) } := by
  have heffect : wtEffect blk s.cfg s.wt = ({ s.wt with tp := wtTracked s.cfg s.wt.tp (traceOf s.cfg blk) },
      .trace ((traceOf s.cfg blk).map (positionOf s.cfg (wtTracked s.cfg s.wt.tp (traceOf s.cfg blk))))) := by
    simp only [wtEffect, hfault, blockFits_eq_true.mpr hblk]
  rw [exec_wtProcess_eq, heffect]

/-- Settles O32: a valid record has at least one trace point, so the peak is the absolute value of one. -/
theorem wtProcessUpdatesGainAndPositions : Obligations.WtProcessUpdatesGainAndPositions := by
  intro blk s hc hfault hblk
  obtain ⟨⟨-, -, -, hcols, -⟩, -⟩ := s.cfg.valid_iff.mp hc
  have hlen := traceOf_length s.cfg blk
  have hne : traceOf s.cfg blk ≠ [] := List.ne_nil_of_length_pos (hlen ▸ hcols)
  refine ⟨_, _, _, exec_wtProcess_of_fits hfault hblk, rfl, peakOf_mem hne, fun _ => abs_le_peakOf, rfl, ?_, ?_⟩
  · rw [List.length_map, hlen]
  · intro j hj v
    have hj' : j < (traceOf s.cfg blk).length := hlen ▸ hj
    rw [List.getElem?_map, List.getElem?_eq_getElem hj', Option.map_some, positionOf_eq_floor, ← List.getD_eq_getElem _ 0 hj']
    rfl

/-- Settles O33: each position is clamped. -/
theorem wtPositionsStayInRange : Obligations.WtPositionsStayInRange := by
  intro blk s hfault hblk
  refine ⟨_, _, exec_wtProcess_of_fits hfault hblk, rfl, fun p hp => ?_⟩
  obtain ⟨y, -, rfl⟩ := List.mem_map.mp hp
  exact positionOf_mem ..

end Sys2Proof.Machine
end

section
/-!
Silence in the waveform tracer (R199 (a), (b)): the trace of zeros is zero wherever it is triggered, so the gain reference decays and
every position is on the centre line.
-/

namespace Sys2Proof.Machine

variable {K : Type} [Field K]

theorem segmentOf_silent (c : ConfigOf K) (n trig : Nat) :
    ∃ len, segmentOf c (List.replicate n 0) trig = List.replicate len 0 := by
  simp only [segmentOf, List.drop_replicate, List.take_replicate, List.replicate_append_replicate]
  exact ⟨_, rfl⟩

variable [LinearOrder K]

section Trace

variable [FloorRing K]

theorem interpolate_silent (len : Nat) (pos : K) : interpolate (List.replicate len 0) pos = 0 := by
  simp [interpolate]

theorem traceOf_silent (c : ConfigOf K) (n : Nat) : traceOf c (List.replicate n 0) = List.replicate c.scopeCols 0 := by
  obtain ⟨len, hseg⟩ := segmentOf_silent c n (triggerIndex c (List.replicate n 0))
  rw [traceOf, hseg, resample]
  simp only [interpolate_silent, List.map_const', List.length_range]

end Trace

variable [IsStrictOrderedRing K]

/-- A gain reference that is not negative takes the release rate toward a silent trace (R195). -/
theorem wtTracked_silent (c : ConfigOf K) {tp : K} (htp : 0 ≤ tp) {n : Nat} (hn : n ≠ 0) :
    wtTracked c tp (List.replicate n 0) = max (tp - c.wtRelease * tp) c.wtMinAmp := by
  rw [wtTracked, peakOf, List.map_replicate, abs_zero, maxNums_replicate hn, track_of_le htp, zero_sub, mul_neg, ← sub_eq_add_neg]

/-- Half of `MAX_Y`, truncated (R196). -/
theorem positionOf_zero [FloorRing K] (c : ConfigOf K) (tp : K) : positionOf c tp 0 = ((c.maxY / 2 : Nat) : Int) := by
  have hcentre : clamp (0 : K) (-1) 1 = 0 := by
    rw [clamp, min_eq_right zero_le_one, max_eq_right (neg_nonpos.mpr zero_le_one)]
  have hhalf : (0 + 1) / 2 * (c.maxY : K) = (c.maxY : K) / 2 := by ring
  rw [positionOf_eq_floor, zero_div, hcentre, hhalf, ← Int.natCast_floor_eq_floor (by positivity), Nat.floor_div_ofNat, Nat.floor_natCast]

/-- Settles O34: the invariant keeps the gain reference above its positive minimum. -/
theorem wtSilenceDrawsTheCentreLine : Obligations.WtSilenceDrawsTheCentreLine := by
  intro s hinv hfault
  obtain ⟨hc, -, -, hwt, -⟩ := hinv
  obtain ⟨⟨-, -, -, hcols, -⟩, -, -, -, -, -, -, -, hmin⟩ := s.cfg.valid_iff.mp hc
  have htp : 0 ≤ s.wt.tp := hmin.le.trans hwt
  rw [exec_wtProcess_of_fits hfault List.length_replicate, traceOf_silent, wtTracked_silent s.cfg htp (by omega), List.map_replicate,
    positionOf_zero]

end Sys2Proof.Machine
end

section
/-!
A packet of the 59-byte variant whose bars are all zero (R218): zeros pass the clamp unchanged and leave the checksum to the header.
-/

namespace Sys2Proof.Machine

theorem clampByte_zero (limit : Byte) : clampByte 0#8 limit = 0#8 := if_pos (Nat.zero_le _)

/-- A section of zeros reads the same whether it is enabled or not (R212, R213). -/
theorem sectionBytes_zeros (enabled : Bool) (limit : Byte) (n : Nat) :
    sectionBytes enabled limit (List.replicate n 0#8) = List.replicate n 0#8 := by
  cases enabled <;> simp [sectionBytes, clampByte_zero]

theorem xorBytes_zeros (n : Nat) : xorBytes (List.replicate n 0#8) = 0#8 := by
  induction n with
  | zero => rfl
  | succ n ih => rw [List.replicate_succ, xorBytes, ih, BitVec.xor_zero]

/-- Zero bars leave a body whose bytes beyond the header are all zero (R211). -/
theorem encodeBody_v59_zeroBars (f : WireFormat) (boardId frameSeq brightness : Byte) (n : Nat) (scopeEn : Bool) (scope : List Byte)
    (vuEn : Bool) (vu : List Byte) :
    encodeBody f .v59 boardId frameSeq brightness (List.replicate n 0#8) scopeEn scope vuEn vu =
      [boardId, frameSeq, brightness] ++ List.replicate n 0#8 := by
  simp [encodeBody, bodyOf, Variant.hasScope, Variant.hasVu, sectionBytes_zeros]

/-- The checksum of such a packet is that of its three header bytes (R214). -/
theorem encodePacket_v59_zeroBars (f : WireFormat) (boardId frameSeq brightness : Byte) (n : Nat) (scopeEn : Bool) (scope : List Byte)
    (vuEn : Bool) (vu : List Byte) :
    encodePacket f .v59 boardId frameSeq brightness (List.replicate n 0#8) scopeEn scope vuEn vu =
      [f.sync0, f.sync1, boardId, frameSeq, brightness] ++ List.replicate n 0#8 ++ [xorBytes [boardId, frameSeq, brightness]] := by
  rw [encodePacket, encodeBody_v59_zeroBars, xorBytes_append, xorBytes_zeros, BitVec.xor_zero]
  rfl

/-- Settles O36: the packet of zero bars for the header `00 07 80`, whose exclusive-or is `87`. -/
theorem encodeGivesTheSourceExample : Obligations.EncodeGivesTheSourceExample := by
  intro s hvariant ⟨hsync0, hsync1, hbars, _⟩
  have hfit : (List.replicate 53 0#8).length = s.cfg.wire.barsPerPkt := List.length_replicate.trans hbars.symm
  have hchecksum : xorBytes [0x00#8, 0x07#8, 0x80#8] = 0x87#8 := by decide
  rw [encodeBarsOnly, exec_encEncode_eq]
  simp only [BitVec.ofNat_eq_ofNat]
  rw [encodeAnswer_of_lengths hfit List.length_replicate List.length_replicate, hvariant, encodePacket_v59_zeroBars, hsync0, hsync1,
    hchecksum]

end Sys2Proof.Machine
end

section
/-!
The validator and the packets it accepts (R231, R232): they are a body between the sync marker and its own checksum, so a packet with
one bit flipped is none of them (R234), and the encoder's packet gives its fields back (R233).
-/

namespace Sys2Proof.Machine

/-! ## What the validator accepts -/

theorem parseBody_scope (f : WireFormat) (v : Variant) (body : List Byte) :
    (parseBody f v body).scope = if v = .v59 then none else some (bytesAt f.scopePerPkt (3 + f.barsPerPkt) body) := by
  cases v <;> rfl

theorem parseBody_vu (f : WireFormat) (v : Variant) (body : List Byte) :
    (parseBody f v body).vu =
      if v = .v116 then some (bytesAt f.vuPerPkt (3 + f.barsPerPkt + f.scopePerPkt) body) else none := by
  cases v <;> rfl

/-- Settles O43: the fields are the slices by definition, and the VU section of a body is all that follows the scope. -/
theorem parseDeliversFieldsAsReceived : Obligations.ParseDeliversFieldsAsReceived := by
  intro w v body hlen
  refine ⟨rfl, rfl, rfl, rfl, parseBody_scope w v body, (parseBody_vu w v body).trans ?_⟩
  split_ifs with hv
  · subst hv
    rw [bytesAt, List.take_of_length_le]
    simp only [List.length_drop, hlen, WireFormat.bodyLen, Variant.hasScope, Variant.hasVu, if_true]
    omega
  · rfl

/-- The three tests of R232, and the frame when all three hold. -/
theorem validatePacket_eq_some {w : WireFormat} {v : Variant} {buf : List Byte} {f : DecodedFrame} :
    validatePacket w v buf = some f ↔
      buf.length = w.pktLen v ∧ buf.getD 0 0 = w.sync0 ∧ buf.getD 1 0 = w.sync1 ∧
        xorBytes (packetBody w v buf) = buf.getD (w.pktLen v - 1) 0 ∧ f = parseBody w v (packetBody w v buf) := by
  unfold validatePacket
  split_ifs with hlen hsync hsum <;> grind

/-- Settles O44: the operation returns what the validator returns, which makes the three tests of R232. -/
theorem validateAcceptsExactlyValidPackets : Obligations.ValidateAcceptsExactlyValidPackets := by
  intro buf s v w
  refine ⟨validatePacket w v buf, exec_decValidate_eq buf s, fun f => ?_⟩
  rw [xorFold_eq_xorBytes]
  exact validatePacket_eq_some

/-- The accepted packets are the bodies between the sync marker and their own checksum. -/
theorem exists_body_of_validatePacket {w : WireFormat} {v : Variant} {pkt : List Byte} {f : DecodedFrame}
    (h : validatePacket w v pkt = some f) :
    ∃ body : List Byte, body.length = w.bodyLen v ∧ pkt = packetOf w body (xorBytes body) ∧ f = parseBody w v body := by
  obtain ⟨hlen, h0, h1, hsum, hf⟩ := validatePacket_eq_some.mp h
  refine ⟨packetBody w v pkt, bytesAt_length ?_, ?_, hf⟩
  · rw [hlen, WireFormat.pktLen]
    omega
  · rw [hsum, packetBody, packetOf_slices (hasSync_iff.mpr ⟨h0, h1⟩) hlen]

/-! ## One bit flipped (R234) -/

/-- The checksum follows a change in any byte. -/
theorem xorBytes_set_xor {bs : List Byte} {k : Nat} (h : k < bs.length) (x : Byte) :
    xorBytes (bs.set k (bs.getD k 0 ^^^ x)) = xorBytes bs ^^^ x := by
  induction bs generalizing k with
  | nil => simp at h
  | cons b bs ih =>
    cases k with
    | zero => simp only [List.set_cons_zero, List.getD_cons_zero, xorBytes, BitVec.xor_assoc, BitVec.xor_comm x]
    | succ k =>
      simp only [List.set_cons_succ, List.getD_cons_succ, xorBytes, ih (Nat.lt_of_succ_lt_succ h), BitVec.xor_assoc]

/-- Body and checksum cancel, so every accepted packet has one and the same exclusive-or over all its bytes. -/
theorem xorBytes_of_validatePacket {w : WireFormat} {v : Variant} {pkt : List Byte} {f : DecodedFrame}
    (h : validatePacket w v pkt = some f) : xorBytes pkt = w.sync0 ^^^ w.sync1 := by
  obtain ⟨body, -, rfl, -⟩ := exists_body_of_validatePacket h
  have hcancel : xorBytes body ^^^ xorBytes [xorBytes body] = 0#8 := by simp [xorBytes]
  rw [packetOf, xorBytes_append, xorBytes_append, BitVec.xor_assoc, hcancel]
  simp [xorBytes]

/-- Settles O48: the flip changes the exclusive-or over the whole packet, which all accepted packets share. -/
theorem singleBitFlipIsRejected : Obligations.SingleBitFlipIsRejected := by
  intro pkt s t f k bit hk hbit hexec hresult
  rw [exec_decValidate_eq] at hexec
  injection hexec with hexec
  subst hexec
  injection hresult with hvalid
  have hrejected : validatePacket s.cfg.wire s.cfg.decVariant (pkt.set k (pkt.getD k 0 ^^^ BitVec.twoPow 8 bit)) = none := by
    refine Option.eq_none_iff_forall_ne_some.mpr fun g hg => ?_
    have hsame := (xorBytes_of_validatePacket hg).trans (xorBytes_of_validatePacket hvalid).symm
    rw [xorBytes_set_xor hk] at hsame
    have hzero : BitVec.twoPow 8 bit = 0#8 := by simpa using hsame
    have hone : (BitVec.twoPow 8 bit).getLsbD bit = true := by simp [hbit]
    simp [hzero] at hone
  rw [exec_decValidate_eq, hrejected]

/-! ## The encoder's packet (R233) -/

/-- A section inside its limit is sent unchanged (R213). -/
theorem sectionBytes_of_le {operand : List Byte} {limit : Byte} (h : ∀ b ∈ operand, b.toNat ≤ limit.toNat) (enabled : Bool) :
    sectionBytes enabled limit operand = if enabled then operand else List.replicate operand.length 0 := by
  have hclamp : operand.map (fun v => clampByte v limit) = operand :=
    (List.map_congr_left fun b hb => if_pos (h b hb)).trans (List.map_id _)
  rw [sectionBytes, hclamp]

theorem parseBody_encodeBody {w : WireFormat} {bars scope vu : List Byte} (h : InWireRange w bars scope vu) (v : Variant)
    (boardId frameSeq brightness : Byte) (scopeEn vuEn : Bool) :
    parseBody w v (encodeBody w v boardId frameSeq brightness bars scopeEn scope vuEn vu) =
      sentFrame v boardId frameSeq brightness bars scopeEn scope vuEn vu := by
  obtain ⟨⟨hb, hs, hv⟩, hbars, hscope, hvu⟩ := h
  rw [encodeBody, parseBody_bodyOf v ((sectionBytes_length ..).trans hb) (fun _ => (sectionBytes_length ..).trans hs)
    (fun _ => (sectionBytes_length ..).trans hv), sectionBytes_of_le hbars, sectionBytes_of_le hscope, sectionBytes_of_le hvu]
  cases v <;> rfl

theorem validatePacket_encodePacket {w : WireFormat} {bars scope vu : List Byte} (h : InWireRange w bars scope vu) (v : Variant)
    (boardId frameSeq brightness : Byte) (scopeEn vuEn : Bool) :
    validatePacket w v (encodePacket w v boardId frameSeq brightness bars scopeEn scope vuEn vu) =
      some (sentFrame v boardId frameSeq brightness bars scopeEn scope vuEn vu) := by
  have ⟨harrays, _⟩ := h
  rw [encodePacket, validatePacket_packetOf (encodeBody_length harrays ..), if_pos rfl, parseBody_encodeBody h]

/-- Settles O46: the packet carries its own checksum, and its body parses to what was encoded. -/
theorem datagramRoundTrip : Obligations.DatagramRoundTrip := by
  intro boardId frameSeq brightness bars scopeEn scope vuEn vu s hrange hvariant
  have ⟨⟨hb, hs, hv⟩, _⟩ := hrange
  refine ⟨_, _, exec_encEncode_eq .., encodeAnswer_of_lengths hb hs hv .., ?_⟩
  rw [exec_decValidate_eq]
  simp only [hvariant, validatePacket_encodePacket hrange]

end Sys2Proof.Machine
end

section
/-!
One byte of the streaming decoder in the machine (R225 to R230): `DEC.FEED` in each state, and the byte-class rows from it.
-/

namespace Sys2Proof.Machine

/-- The completing byte is stored behind the body and compared with the body's exclusive-or (R230). -/
theorem emitted_append {f : WireFormat} {v : Variant} {d : DecState} (hcur : d.cur = f.bodyLen v) (hbuf : d.buf.length = f.bodyLen v + 1)
    (b : Byte) :
    (d.append b).emitted f v =
      if xorBytes (d.buf.take (f.bodyLen v)) = b then [parseBody f v (d.buf.take (f.bodyLen v))] else [] := by
  have hbody : (d.append b).buf.take (f.bodyLen v) = d.buf.take (f.bodyLen v) := by
    rw [DecState.append_buf, hcur, List.take_set_of_le le_rfl]
  have hlast : (d.append b).buf.getD (f.bodyLen v) 0 = b := by
    rw [DecState.append_buf, hcur]
    simp [hbuf]
  simp only [DecState.emitted, DecState.checksumOk, hbody, hlast, beq_iff_eq]

/-- The byte that completes the body (R230). -/
theorem decFeed_completing {f : WireFormat} {v : Variant} {d : DecState} (hst : d.st = .s2) (hcur : d.cur = f.bodyLen v)
    (hbuf : d.buf.length = f.bodyLen v + 1) (b : Byte) :
    decFeed f v d b = (⟨.s0, d.cur + 1, d.buf.set d.cur b⟩,
      if xorBytes (d.buf.take (f.bodyLen v)) = b then [parseBody f v (d.buf.take (f.bodyLen v))] else []) := by
  rw [decFeed_check hst (by omega), emitted_append hcur hbuf]
  rfl

/-- A byte fed to the machine, by what the decoder does with it. -/
theorem exec_decFeed_of {b : Byte} {s : State} {d : DecState} {fs : List DecodedFrame}
    (h : decFeed s.cfg.wire s.cfg.decVariant s.dec b = (d, fs)) :
    exec (.decFeed b) s = .next { s with dec := d, result := .frames fs } := by
  rw [exec_decFeed_eq, feedEffect, h]

/-- Settles O38: the branches of R225, one for each state of the decoder. -/
theorem feedTakesOneByte : Obligations.FeedTakesOneByte := by
  intro b s
  refine ⟨fun hst => exec_decFeed_of ?_, fun hst => exec_decFeed_of ?_, fun hst hcur => exec_decFeed_of ?_,
    fun hst hcur hbuf => exec_decFeed_of ?_⟩
  · rw [decFeed_s0 hst]
    split_ifs
    · rfl
    · rw [← hst]
  · rw [decFeed_s1 hst]
    split_ifs
    · rfl
    · rw [← hst]
    · rfl
  · rw [decFeed_body hst hcur, ← hst]
    rfl
  · rw [decFeed_completing hst hcur hbuf, xorFold_eq_xorBytes]

/-- Settles O39: each row is its byte fed in S0 or S1. -/
theorem syncRowsMoveTheDecoder : Obligations.SyncRowsMoveTheDecoder := by
  refine ⟨fun s hst => ?_, fun b s hst h0 => ?_, fun s hst => ?_, fun s hst hne => ?_, fun b s hst h0 h1 => ?_⟩
  · rw [byteClassRowsAreTheByteFed .decS0Sync0 s.cfg.wire.sync0 s rfl]
    exact exec_decFeed_of (by rw [decFeed_s0 hst, if_pos rfl])
  · rw [byteClassRowsAreTheByteFed (.decS0Other b) b s rfl]
    exact exec_decFeed_of (by rw [decFeed_s0 hst, if_neg h0])
  · rw [byteClassRowsAreTheByteFed .decS1Sync1 s.cfg.wire.sync1 s rfl]
    exact exec_decFeed_of (by rw [decFeed_s1 hst, if_pos rfl])
  · rw [byteClassRowsAreTheByteFed .decS1Sync0 s.cfg.wire.sync0 s rfl]
    exact exec_decFeed_of (by rw [decFeed_s1 hst, if_neg hne, if_pos rfl])
  · rw [byteClassRowsAreTheByteFed (.decS1Other b) b s rfl]
    exact exec_decFeed_of (by rw [decFeed_s1 hst, if_neg h1, if_neg h0])

/-- Settles O40: the row is the byte fed below the end of the body. -/
theorem bodyRowStoresTheByte : Obligations.BodyRowStoresTheByte := by
  intro b s hst hcur
  obtain ⟨-, -, hfill, -⟩ := feedTakesOneByte b s
  exact (byteClassRowsAreTheByteFed (.decS2Body b) b s rfl).trans (hfill hst hcur)

/-- Settles O41: the row is the byte fed at the end of the body. -/
theorem checkRowComparesTheChecksum : Obligations.CheckRowComparesTheChecksum := by
  intro b s hst hcur hbuf
  obtain ⟨-, -, -, hcheck⟩ := feedTakesOneByte b s
  rw [byteClassRowsAreTheByteFed (.decS2Check b) b s rfl, hcheck hst hcur hbuf, hcur]

end Sys2Proof.Machine
end

section
/-!
Sequences of bytes in the streaming decoder: a body window (R229, R230, R237), a packet from the sync search on, and garbage before it
(R235, R236).
-/

namespace Sys2Proof.Machine

variable {f : WireFormat} {v : Variant} {d : DecState}

/-! ## A body window -/

/-- Bytes that stay inside the body are stored from the cursor on and emit nothing (R229). -/
theorem decFeedAll_fill {bytes : List Byte} (hst : d.st = .s2) (hcur : d.cur + bytes.length ≤ f.bodyLen v)
    (hbuf : d.buf.length = f.bodyLen v + 1) :
    decFeedAll f v d bytes =
      (⟨.s2, d.cur + bytes.length, d.buf.take d.cur ++ bytes ++ d.buf.drop (d.cur + bytes.length)⟩, []) := by
  induction bytes generalizing d with
  | nil =>
    rw [decFeedAll_nil, ← hst]
    simp
  | cons b bytes ih =>
    rw [List.length_cons] at hcur
    have hrest := ih (d := d.append b) hst (by rw [DecState.append_cur]; omega) (by rw [DecState.append_buf, List.length_set, hbuf])
    have hstored : (d.buf.set d.cur b).take (d.cur + 1) = d.buf.take d.cur ++ [b] := by
      rw [List.take_succ_eq_append_getElem (by rw [List.length_set]; omega), List.take_set_of_le le_rfl, List.getElem_set_self]
    have hbehind : (d.buf.set d.cur b).drop (d.cur + 1 + bytes.length) = d.buf.drop (d.cur + 1 + bytes.length) :=
      List.drop_set_of_lt (by omega)
    rw [decFeedAll, decFeed_body hst (by omega), hrest, DecState.append_cur, DecState.append_buf, hstored, hbehind]
    simp [Nat.add_assoc, Nat.add_comm 1 bytes.length]

/-- A whole body and the byte after it: to S0, with a frame exactly when that byte is the body's exclusive-or (R230). -/
theorem decFeedAll_window {body : List Byte} (hst : d.st = .s2) (hcur : d.cur = 0) (hbuf : d.buf.length = f.bodyLen v + 1)
    (hbody : body.length = f.bodyLen v) (checksum : Byte) :
    (decFeedAll f v d (body ++ [checksum])).1.st = .s0 ∧
      (decFeedAll f v d (body ++ [checksum])).2 = if xorBytes body = checksum then [parseBody f v body] else [] := by
  have hfill := decFeedAll_fill hst (by omega : d.cur + body.length ≤ f.bodyLen v) hbuf
  rw [hcur, Nat.zero_add, List.take_zero, List.nil_append] at hfill
  have hlen : (body ++ d.buf.drop body.length).length = f.bodyLen v + 1 := by
    rw [List.length_append, List.length_drop]
    omega
  rw [decFeedAll_append, hfill]
  simp only [decFeedAll, List.nil_append, List.append_nil]
  rw [decFeed_completing rfl hbody hlen, List.take_left' hbody]
  exact ⟨rfl, rfl⟩

/-- Settles O50: the window is a body and one byte. -/
theorem bodyWindowEndsAfterItsLength : Obligations.BodyWindowEndsAfterItsLength := by
  intro w v d bytes hst hcur hbuf
  refine ⟨fun hlen => ?_, fun hlen => ?_⟩
  · rw [decFeedAll_fill hst (by omega) hbuf]
    exact ⟨rfl, rfl⟩
  · have hne : bytes ≠ [] := List.ne_nil_of_length_eq_add_one hlen
    have hbody : bytes.dropLast.length = w.bodyLen v := by rw [List.length_dropLast, hlen, Nat.add_sub_cancel]
    rw [← List.dropLast_append_getLast hne]
    obtain ⟨hend, hframes⟩ := decFeedAll_window hst hcur hbuf hbody (bytes.getLast hne)
    refine ⟨hend, ?_⟩
    rw [hframes]
    split_ifs
    · exact le_rfl
    · exact Nat.zero_le 1

/-! ## A packet from the sync search on -/

/-- The sync marker leads into S2 with the cursor at 0 (R226, R227); from S1, where its first byte keeps the search (R228), too. -/
theorem decFeedAll_marker (hst : d.st = .s0 ∨ d.st = .s1 ∧ f.sync0 ≠ f.sync1) :
    decFeedAll f v d [f.sync0, f.sync1] = (⟨.s2, 0, d.buf⟩, []) := by
  have hfirst : decFeed f v d f.sync0 = ({ d with st := .s1 }, []) := by
    rcases hst with hst | ⟨hst, hne⟩
    · rw [decFeed_s0 hst, if_pos rfl]
    · rw [decFeed_s1 hst, if_neg hne, if_pos rfl, ← hst]
  have hsecond : decFeed f v { d with st := .s1 } f.sync1 = (⟨.s2, 0, d.buf⟩, []) := by rw [decFeed_s1 rfl, if_pos rfl]
  simp only [decFeedAll, hfirst, hsecond, List.append_nil]

/-- A packet without its last byte emits nothing. -/
theorem decFeedAll_marker_body {body : List Byte} (hst : d.st = .s0 ∨ d.st = .s1 ∧ f.sync0 ≠ f.sync1)
    (hbuf : d.buf.length = f.bodyLen v + 1) (hbody : body.length = f.bodyLen v) :
    (decFeedAll f v d ([f.sync0, f.sync1] ++ body)).2 = [] := by
  have hfill := decFeedAll_fill (d := ⟨.s2, 0, d.buf⟩) rfl (by rw [hbody, Nat.zero_add]) hbuf
  rw [decFeedAll_append, decFeedAll_marker hst, hfill, List.nil_append]

/-- A packet with its own checksum emits its frame and leaves the decoder in S0. -/
theorem decFeedAll_packetOf {body : List Byte} (hst : d.st = .s0 ∨ d.st = .s1 ∧ f.sync0 ≠ f.sync1)
    (hbuf : d.buf.length = f.bodyLen v + 1) (hbody : body.length = f.bodyLen v) :
    (decFeedAll f v d (packetOf f body (xorBytes body))).1.st = .s0 ∧
      (decFeedAll f v d (packetOf f body (xorBytes body))).2 = [parseBody f v body] := by
  obtain ⟨hend, hframes⟩ := decFeedAll_window (d := ⟨.s2, 0, d.buf⟩) rfl rfl hbuf hbody (xorBytes body)
  rw [packetOf, List.append_assoc, decFeedAll_append, decFeedAll_marker hst]
  exact ⟨hend, hframes.trans (if_pos rfl)⟩

/-! ## Garbage before a packet (R235, R236) -/

/-- Without a sync pair the search stays in S0 and S1, and is in S1 only right after a `SYNC0`. -/
theorem decFeedAll_noSyncPair {garbage : List Byte} (hst : d.st = .s0) (hgarbage : NoSyncPair f garbage) :
    (decFeedAll f v d garbage).2 = [] ∧ (decFeedAll f v d garbage).1.buf = d.buf ∧
      ((decFeedAll f v d garbage).1.st = .s0 ∨ (decFeedAll f v d garbage).1.st = .s1 ∧ ∃ pre, garbage = pre ++ [f.sync0]) := by
  induction garbage using List.reverseRecOn with
  | nil => exact ⟨rfl, rfl, .inl hst⟩
  | append_singleton garbage b ih =>
    have hbefore : NoSyncPair f garbage := fun pre post h => hgarbage pre (post ++ [b]) (by rw [h, List.append_assoc])
    obtain ⟨hframes, hbuf, hsearch⟩ := ih hbefore
    rw [decFeedAll_append]
    simp only [decFeedAll, hframes, List.nil_append, List.append_nil]
    rcases hsearch with hs0 | ⟨hs1, pre, rfl⟩
    · rw [decFeed_s0 hs0]
      split_ifs with hb
      · exact ⟨rfl, hbuf, .inr ⟨rfl, garbage, by rw [hb]⟩⟩
      · exact ⟨rfl, hbuf, .inl hs0⟩
    · have hb1 : b ≠ f.sync1 := fun h => hgarbage pre [] (by simp [h])
      rw [decFeed_s1 hs1, if_neg hb1]
      split_ifs with hb
      · exact ⟨rfl, hbuf, .inr ⟨hs1, pre ++ [f.sync0], by rw [hb]⟩⟩
      · exact ⟨rfl, hbuf, .inl rfl⟩

/-- Settles O49: the packet meets the search in S0 or S1. -/
theorem garbageBeforeAPacketCostsNothing : Obligations.GarbageBeforeAPacketCostsNothing := by
  intro w v d garbage pkt f hne hst hbuf hgarbage hpkt
  obtain ⟨body, hbody, rfl, rfl⟩ := exists_body_of_validatePacket hpkt
  obtain ⟨hframes, hkept, hsearch⟩ := decFeedAll_noSyncPair (v := v) hst hgarbage
  have hready : (decFeedAll w v d garbage).1.st = .s0 ∨ (decFeedAll w v d garbage).1.st = .s1 ∧ w.sync0 ≠ w.sync1 :=
    hsearch.imp_right fun h => ⟨h.1, hne⟩
  obtain ⟨hend, hframe⟩ := decFeedAll_packetOf hready (hkept ▸ hbuf) hbody
  rw [decFeedAll_append, hframes, hframe]
  exact ⟨rfl, hend⟩

end Sys2Proof.Machine
end

section
/-!
Wire bytes as the machine's inputs (R104, R225): a run takes them one by one, and the encoder's packet comes back as one frame (R233).
-/

namespace Sys2Proof.Machine

/-- A wire byte at the front of the inbox is fed to the decoder: every row of R98 is the byte it is written in. -/
theorem step_wire {s : State} {b : Byte} {rest : List Input} (hvalid : s.cfg.Valid) (hinbox : s.inbox = .word (.wire b) :: rest) :
    step s = .next { s with
      inbox := rest
      dec := (decFeed s.cfg.wire s.cfg.decVariant s.dec b).1
      result := .frames (decFeed s.cfg.wire s.cfg.decVariant s.dec b).2 } := by
  rw [stepRunsTheDecodedInstruction s _ rest (decodeWire s.cfg.wire s.decPos b) hvalid hinbox rfl,
    byteClassRowsAreTheByteFed _ b { s with inbox := rest } (encode_decodeWire ..)]
  exact exec_decFeed_of rfl

/-- A run over wire bytes folds the decoder over them; its result is that of the last byte. -/
theorem run_feedInputs {s : State} {bytes : List Byte} {b : Byte} {rest : List Input} (hvalid : s.cfg.Valid)
    (hinbox : s.inbox = feedInputs (bytes ++ [b]) ++ rest) :
    Sys2Proof.core.run (bytes.length + 1) s = .next { s with
      inbox := rest
      dec := (decFeedAll s.cfg.wire s.cfg.decVariant s.dec (bytes ++ [b])).1
      result := .frames
        (decFeed s.cfg.wire s.cfg.decVariant (decFeedAll s.cfg.wire s.cfg.decVariant s.dec bytes).1 b).2 } := by
  induction bytes generalizing s with
  | nil => exact run_succ (step_wire hvalid hinbox)
  | cons x bytes ih =>
    rw [List.length_cons, run_succ (step_wire hvalid hinbox)]
    exact ih hvalid rfl

/-- The frames of a sequence hold those of every byte in it. -/
theorem decFeed_of_decFeedAll_silent {f : WireFormat} {v : Variant} {d : DecState} {pre post : List Byte} {b : Byte}
    (h : (decFeedAll f v d (pre ++ b :: post)).2 = []) : (decFeed f v (decFeedAll f v d pre).1 b).2 = [] := by
  rw [decFeedAll_append] at h
  simp only [decFeedAll, List.append_eq_nil_iff] at h
  obtain ⟨-, hbyte, -⟩ := h
  exact hbyte

/-- A packet with its own checksum as the next inputs of a decoder in S0: no byte before the last emits anything, so the packet's one
frame is that of the last. -/
theorem run_packetOf {s : State} {body : List Byte} {rest : List Input} (hvalid : s.cfg.Valid) (hst : s.dec.st = .s0)
    (hbuf : s.dec.buf.length = s.cfg.wire.bodyLen s.cfg.decVariant + 1) (hbody : body.length = s.cfg.wire.bodyLen s.cfg.decVariant)
    (hinbox : s.inbox = feedInputs (packetOf s.cfg.wire body (xorBytes body)) ++ rest) :
    (∀ k, 1 ≤ k → k < s.cfg.wire.pktLen s.cfg.decVariant → ∃ t : State, Sys2Proof.core.run k s = .next t ∧ t.result = .frames []) ∧
      ∃ t : State, Sys2Proof.core.run (s.cfg.wire.pktLen s.cfg.decVariant) s = .next t ∧ t.inbox = rest ∧ t.dec.st = .s0 ∧
        t.result = .frames [parseBody s.cfg.wire s.cfg.decVariant body] := by
  have hsilent := decFeedAll_marker_body (.inl hst) hbuf hbody
  obtain ⟨hend, hframes⟩ := decFeedAll_packetOf (.inl hst) hbuf hbody
  rw [packetOf] at hinbox hend hframes
  generalize hhead : [s.cfg.wire.sync0, s.cfg.wire.sync1] ++ body = head at hinbox hend hframes hsilent
  have hlen : head.length + 1 = s.cfg.wire.pktLen s.cfg.decVariant := by
    rw [← hhead, WireFormat.pktLen, ← hbody]
    simp
  refine ⟨fun k hpos hk => ?_, ?_⟩
  · obtain ⟨n, rfl⟩ := Nat.exists_eq_add_of_le' hpos
    have hn : n < head.length := by omega
    obtain ⟨pre, b, post, rfl, rfl⟩ : ∃ pre b post, pre.length = n ∧ head = pre ++ b :: post :=
      ⟨head.take n, head[n], head.drop (n + 1), List.length_take_of_le hn.le, by
        rw [List.getElem_cons_drop hn, List.take_append_drop]⟩
    have hin : s.inbox = feedInputs (pre ++ [b]) ++ (feedInputs (post ++ [xorBytes body]) ++ rest) := by
      rw [hinbox]
      simp [feedInputs]
    exact ⟨_, run_feedInputs hvalid hin, congrArg Response.frames (decFeed_of_decFeedAll_silent hsilent)⟩
  · rw [← hlen]
    refine ⟨_, run_feedInputs hvalid hinbox, rfl, hend, congrArg Response.frames ?_⟩
    rw [decFeedAll_append, hsilent] at hframes
    simpa [decFeedAll] using hframes

/-- Settles O47: the encoder's packet carries its own checksum, and its body parses to what was encoded. -/
theorem streamRoundTrip : Obligations.StreamRoundTrip := by
  intro boardId frameSeq brightness bars scopeEn scope vuEn vu s rest hvalid hrange hst hbuf v pkt hinbox
  have ⟨harrays, _⟩ := hrange
  rw [← parseBody_encodeBody hrange]
  exact run_packetOf hvalid hst hbuf (encodeBody_length harrays ..) hinbox

end Sys2Proof.Machine
end

section
/-!
A Frame encoded board by board (R104, R256): the packet of a board is the encoder's packet of its slice of the bars.
-/

namespace Sys2Proof.Machine

theorem frameEncodable_eq_true {w : WireFormat} {k : Nat} {f : Frame} :
    frameEncodable w k f = true ↔
      w.barsPerPkt ∣ f.bars.length ∧ w.barsPerPkt * (k + 1) ≤ f.bars.length ∧ f.scope.length = w.scopePerPkt ∧
        w.vuPerPkt = 4 ∧ k < 256 := by
  simp [frameEncodable, Nat.dvd_iff_mod_eq_zero, Nat.mul_succ, and_assoc]

/-- A byte of a slice is the byte of the whole sequence at the slice's offset. -/
theorem bytesAt_getD {n off i : Nat} (buf : List Byte) (h : i < n) : (bytesAt n off buf).getD i 0 = buf.getD (off + i) 0 := by
  simp [bytesAt, h]

/-- The slice of an encodable frame's board, its trace and its VU values fill the arrays of a packet. -/
theorem packetArrays_of_frameEncodable {w : WireFormat} {k : Nat} {f : Frame} (h : frameEncodable w k f = true) :
    PacketArrays w (bytesAt w.barsPerPkt (w.barsPerPkt * k) f.bars) f.scope f.vu.toList := by
  obtain ⟨-, hboard, hscope, hvu, -⟩ := frameEncodable_eq_true.mp h
  exact ⟨bytesAt_length hboard, hscope, f.vu.length_toList.trans hvu.symm⟩

/-- Settles O37: the operation is `ENC.ENCODE` of the board's slice, whose packet O35 gives byte by byte. -/
theorem frameIsEncodedPerBoard : Obligations.FrameIsEncodedPerBoard := by
  intro k f s v w encodable
  refine ⟨fun h => ?_, fun h => if_neg (mt frameEncodable_eq_true.mp h)⟩
  have hframe : frameEncodable w k f = true := frameEncodable_eq_true.mpr h
  obtain ⟨-, -, -, hvu, hk⟩ := h
  obtain ⟨hpacket, -⟩ := encodeReturnsThePacket (BitVec.ofNat 8 k) f.frameSeq f.brightness
    (bytesAt w.barsPerPkt (w.barsPerPkt * k) f.bars) true f.scope true f.vu.toList s
  obtain ⟨pkt, hexec, hlen, -, -, hboard, hseq, hbright, hbars, hscope, hvus, -⟩ :=
    hpacket (packetArrays_of_frameEncodable hframe)
  refine ⟨_, pkt, if_pos hframe, hexec, hlen, ?_, hseq, hbright, fun i hi => ?_, hscope, fun hv i => ?_⟩
  · rw [hboard, BitVec.toNat_ofNat, Nat.mod_eq_of_lt hk]
  · rw [hbars i hi, bytesAt_getD f.bars hi]
  · have hvalue : f.vu.toList.getD i 0 = f.vu[i] := by simp
    rw [hvus hv i (i.isLt.trans_eq hvu.symm), if_pos rfl, hvalue]

end Sys2Proof.Machine
end

section
/-!
The frame slot (R251 to R253): a publish replaces its arrays, a tick copies it and counts, and `n` ticks count `n`.
-/

namespace Sys2Proof.Machine

/-! ## `FS.PUBLISH` -/

section Publish

variable {K : Type} {c : ConfigOf K} {bars scope : List Byte}

theorem publishEffect_of_lengths (hbars : bars.length = c.nBands) (hscope : scope.length = c.scopeCols) (vu : Vector Byte 4)
    (fs : FsState) : publishEffect bars scope vu c fs = (⟨bars, scope, vu, fs.seq⟩, .done) := by
  simp only [publishEffect, slotArraysFit_eq_true.mpr ⟨hbars, hscope⟩]

theorem publishEffect_of_not_lengths (h : bars.length ≠ c.nBands ∨ scope.length ≠ c.scopeCols) (vu : Vector Byte 4)
    (fs : FsState) : publishEffect bars scope vu c fs = (fs, .refused .operandShape) := by
  have hfit : slotArraysFit c bars scope = false :=
    Bool.eq_false_iff.mpr (mt slotArraysFit_eq_true.mp (not_and_or.mpr h))
  simp only [publishEffect, hfit]

end Publish

/-- Settles O51: the two answers of the effect on the slot. -/
theorem publishReplacesTheSlot : Obligations.PublishReplacesTheSlot := by
  intro bars scope vu s
  refine ⟨fun hbars hscope => ?_, fun h => ?_⟩
  · rw [exec_fsPublish_eq, publishEffect_of_lengths hbars hscope]
  · rw [exec_fsPublish_eq, publishEffect_of_not_lengths h]

/-! ## `FS.TICK` -/

/-- The slot after `n` ticks: the arrays stay, the sequence number is `n` further modulo 256. -/
def FsState.afterTicks (fs : FsState) (n : Nat) : FsState := { fs with seq := fs.seq + BitVec.ofNat 8 n }

theorem FsState.afterTicks_zero (fs : FsState) : fs.afterTicks 0 = fs := by simp [FsState.afterTicks]

theorem FsState.afterTicks_one_afterTicks (fs : FsState) (n : Nat) : (fs.afterTicks 1).afterTicks n = fs.afterTicks (n + 1) := by
  rw [Nat.add_comm]
  simp only [FsState.afterTicks, BitVec.add_assoc, BitVec.ofNat_add]

theorem FsState.afterTicks_seq_toNat (fs : FsState) (n : Nat) : (fs.afterTicks n).seq.toNat = (fs.seq.toNat + n) % 256 := by
  simp [FsState.afterTicks, BitVec.toNat_add]

theorem tickEffect_eq (brightness : Byte) (fs : FsState) :
    tickEffect brightness fs = (fs.afterTicks 1, .frame (fs.frame brightness)) := rfl

/-- Settles O52: the slot is one tick further, the frame is of the slot before. -/
theorem tickReturnsTheSlot : Obligations.TickReturnsTheSlot := by
  intro brightness s
  exact ⟨_, exec_fsTick_eq brightness s, rfl, s.fs.afterTicks_seq_toNat 1⟩

/-! ## A run of ticks (R253) -/

/-- One tick as the next input. -/
theorem step_tick {s : State} {brightness : Byte} {rest : List Input} (hvalid : s.cfg.Valid)
    (hinbox : s.inbox = .word (encode s.cfg.wire (.fsTick brightness)) :: rest) :
    step s = .next { s with inbox := rest, fs := s.fs.afterTicks 1, result := .frame (s.fs.frame brightness) } := by
  have hdecode := decodeOfEncode Number s.cfg s.decPos (.fsTick brightness) rfl rfl
  rw [stepRunsTheDecodedInstruction s _ rest _ hvalid hinbox hdecode, exec_fsTick_eq, tickEffect_eq]

/-- `n + 1` ticks return the slot as `n` ticks leave it. -/
theorem run_ticks (n : Nat) {s : State} {brightness : Byte} {rest : List Input} (hvalid : s.cfg.Valid)
    (hinbox : s.inbox = List.replicate (n + 1) (.word (encode s.cfg.wire (.fsTick brightness))) ++ rest) :
    Sys2Proof.core.run (n + 1) s = .next { s with
      inbox := rest
      fs := s.fs.afterTicks (n + 1)
      result := .frame ((s.fs.afterTicks n).frame brightness) } := by
  induction n generalizing s with
  | zero =>
    rw [FsState.afterTicks_zero]
    exact run_succ (step_tick hvalid hinbox)
  | succ n ih =>
    rw [← s.fs.afterTicks_one_afterTicks (n + 1), ← s.fs.afterTicks_one_afterTicks n, run_succ (step_tick hvalid hinbox)]
    exact ih hvalid rfl

/-- Settles O53: the last frame is the slot after `n` ticks, whose arrays are those of the slot as it stands. -/
theorem repeatedTicksReturnTheSameSlot : Obligations.RepeatedTicksReturnTheSameSlot := by
  intro n brightness s rest hvalid hinbox
  exact ⟨_, _, run_ticks n hvalid hinbox, rfl, rfl, s.fs.afterTicks_seq_toNat n, rfl, rfl, rfl, rfl⟩

end Sys2Proof.Machine
end

section
/-!
The one exception `BlockLength` (R270 to R274). An operation either raises it or leaves every fault flag as it is, so the flags of a good
state stay clear exactly as long as nothing is raised. An operation of another unit does not see the flag. An invalid record refuses every
step (U4).
-/

namespace Sys2Proof.Machine

/-! ## Construction (R302) -/

theorem step_of_not_valid {s : State} (h : ¬ s.cfg.Valid) : step s = .refused .invalidConfiguration := by
  unfold step
  exact if_neg h

/-- Settles O8: the step tests the record before it takes an input. -/
theorem invalidConfigurationRefused : Obligations.InvalidConfigurationRefused := fun _ => step_of_not_valid

/-! ## What raises (R270, R272) -/

section Raise

variable {K : Type}

/-- The instruction is the operation of the analyzer `u` on a block of a wrong length (R151, R171, R197). -/
def WrongLength (c : ConfigOf K) (i : Instr K) (u : Analyzer) : Prop :=
  (∃ blk, i = .saProcess blk ∧ u = .sa ∧ blk.length ≠ c.nb) ∨
  (∃ left right, i = .lmProcess left right ∧ u = .lm ∧ (left.length ≠ c.nb ∨ right.length ≠ c.nb)) ∨
  (∃ blk, i = .wtProcess blk ∧ u = .wt ∧ blk.length ≠ c.nb)

/-- The answer to an operation on `b` tells the issuer of no exception and leaves every fault flag as it is in `b`. -/
def BlockState.RaisesNothing (b : BlockState K) (a : Answer K) : Prop :=
  (∀ e, a.2 ≠ .raised e) ∧ ∀ u, a.1.faulted u = b.faulted u

theorem blockFits_and_eq_false {c : ConfigOf K} {left right : List K} :
    (blockFits c left && blockFits c right) = false ↔ left.length ≠ c.nb ∨ right.length ≠ c.nb := by
  rw [Bool.and_eq_false_iff, blockFits_eq_false, blockFits_eq_false]

theorem BlockState.setFault_faulted (b : BlockState K) (u : Analyzer) : (b.setFault u).faulted u = true := by
  cases u <;> rfl

theorem BlockState.not_good_setFault (b : BlockState K) (u : Analyzer) : ¬ (b.setFault u).Good := fun h =>
  Bool.false_ne_true ((h u).symm.trans (b.setFault_faulted u))

theorem BlockState.reply_raisesNothing {b : BlockState K} {r : Response} (h : ∀ e, r ≠ .raised e) : b.RaisesNothing (b.reply r) :=
  ⟨h, fun _ => rfl⟩

theorem BlockState.RaisesNothing.good_iff {b : BlockState K} {a : Answer K} (h : b.RaisesNothing a) (hgood : b.Good) :
    a.1.Good ↔ ∀ e, a.2 ≠ .raised e := by
  obtain ⟨hresult, hflags⟩ := h
  exact iff_of_true (fun u => (hflags u).trans (hgood u)) hresult

/-- The analyzer guard raises on a wrong length of an unfaulted unit, and nothing else if the operation behind it raises nothing. -/
theorem BlockState.runAnalyzer_raises_or {b : BlockState K} {run : BlockState K → Answer K} (hrun : b.RaisesNothing (run b))
    (u : Analyzer) (ok : Bool) :
    (b.faulted u = false ∧ ok = false ∧ b.runAnalyzer u ok run = b.raiseBlockLength u) ∨ b.RaisesNothing (b.runAnalyzer u ok run) := by
  obtain ⟨-, e⟩ | ⟨-, -, e⟩ | hraise := b.runAnalyzer_cases u ok run
  · exact .inr (e ▸ reply_raisesNothing fun _ => nofun)
  · exact .inr (e ▸ hrun)
  · exact .inl hraise

variable [Field K] [LinearOrder K] [FloorRing K]

theorem BlockState.saProcessed_raisesNothing (c : ConfigOf K) (d : List K) (b : BlockState K) :
    b.RaisesNothing (b.saProcessed c d) :=
  ⟨fun _ => nofun, fun u => by cases u <;> rfl⟩

theorem BlockState.lmProcessed_raisesNothing (c : ConfigOf K) (dLeft dRight : K) (b : BlockState K) :
    b.RaisesNothing (b.lmProcessed c dLeft dRight) :=
  ⟨fun _ => nofun, fun u => by cases u <;> rfl⟩

theorem BlockState.wtProcessed_raisesNothing (c : ConfigOf K) (y : List K) (b : BlockState K) :
    b.RaisesNothing (b.wtProcessed c y) :=
  ⟨fun _ => nofun, fun u => by cases u <;> rfl⟩

variable (f : NumFns K) {c : ConfigOf K} {i : Instr K} {b : BlockState K}

/-- Only the analyzers raise (R270). -/
theorem BlockState.exec_raisesNothing (hi : ∀ u : Analyzer, unitOf i ≠ u.unit) : b.RaisesNothing (b.exec f c i) := by
  refine ⟨?_, fun u => faulted_congr (exec_unit_of_ne f c i b (hi u))⟩
  rw [exec_eq_unitEffect]
  cases i with
  | saProcess => exact absurd rfl (hi .sa)
  | lmProcess => exact absurd rfl (hi .lm)
  | wtProcess => exact absurd rfl (hi .wt)
  | encEncode =>
    dsimp only [unitEffect, encodeAnswer]
    split <;> exact fun _ => nofun
  | fsPublish =>
    dsimp only [unitEffect, publishEffect]
    split <;> exact fun _ => nofun
  | _ => exact fun _ => nofun

theorem BlockState.exec_of_wrongLength {u : Analyzer} (h : WrongLength c i u) (hfault : b.faulted u = false) :
    b.exec f c i = b.raiseBlockLength u := by
  obtain ⟨blk, rfl, rfl, hlen⟩ | ⟨left, right, rfl, rfl, hlen⟩ | ⟨blk, rfl, rfl, hlen⟩ := h
  · rw [BlockState.exec, BlockState.saProcess, blockFits_eq_false.mpr hlen, runAnalyzer_raises hfault]
  · rw [BlockState.exec, BlockState.lmProcess, blockFits_and_eq_false.mpr hlen, runAnalyzer_raises hfault]
  · rw [BlockState.exec, BlockState.wtProcess, blockFits_eq_false.mpr hlen, runAnalyzer_raises hfault]

variable (c i b)

/-- Everything an operation can do to the fault flags. -/
theorem BlockState.exec_raises_or :
    (∃ u, WrongLength c i u ∧ b.faulted u = false ∧ b.exec f c i = b.raiseBlockLength u) ∨ b.RaisesNothing (b.exec f c i) := by
  cases i with
  | saProcess blk =>
    refine (runAnalyzer_raises_or (saProcessed_raisesNothing ..) .sa _).imp_left fun ⟨hfault, hok, e⟩ => ?_
    exact ⟨.sa, .inl ⟨blk, rfl, rfl, blockFits_eq_false.mp hok⟩, hfault, e⟩
  | lmProcess left right =>
    refine (runAnalyzer_raises_or (lmProcessed_raisesNothing ..) .lm _).imp_left fun ⟨hfault, hok, e⟩ => ?_
    exact ⟨.lm, .inr (.inl ⟨left, right, rfl, rfl, blockFits_and_eq_false.mp hok⟩), hfault, e⟩
  | wtProcess blk =>
    refine (runAnalyzer_raises_or (wtProcessed_raisesNothing ..) .wt _).imp_left fun ⟨hfault, hok, e⟩ => ?_
    exact ⟨.wt, .inr (.inr ⟨blk, rfl, rfl, blockFits_eq_false.mp hok⟩), hfault, e⟩
  | _ => exact .inr (exec_raisesNothing f fun u => by cases u <;> nofun)

theorem BlockState.exec_result_raised_iff (e : ExceptionRecord) :
    (b.exec f c i).2 = .raised e ↔ e.code = blockLengthCode ∧ b.faulted e.unit = false ∧ WrongLength c i e.unit := by
  constructor
  · intro h
    obtain ⟨u, hlen, hfault, hexec⟩ | ⟨hresult, -⟩ := b.exec_raises_or f c i
    · rw [hexec] at h
      injection h with h
      subst h
      exact ⟨rfl, hfault, hlen⟩
    · exact absurd h (hresult e)
  · obtain ⟨code, u⟩ := e
    rintro ⟨rfl, hfault, hlen⟩
    rw [exec_of_wrongLength f hlen hfault, raiseBlockLength_snd]

/-! ## Good states (R273) -/

variable {b}

theorem BlockState.exec_good_iff (hgood : b.Good) : (b.exec f c i).1.Good ↔ ∀ e, (b.exec f c i).2 ≠ .raised e := by
  obtain ⟨u, -, -, hexec⟩ | hnothing := b.exec_raises_or f c i
  · rw [hexec]
    exact iff_of_false (b.not_good_setFault u) fun h => h _ rfl
  · exact hnothing.good_iff hgood

theorem BlockState.step_good_iff (input : Input K) (hgood : b.Good) :
    (b.step f c input).1.Good ↔ ∀ e, (b.step f c input).2 ≠ .raised e := by
  cases input with
  | reset => exact iff_of_true (resetWith_faulted c) fun _ => nofun
  | word w =>
    simp only [BlockState.step]
    cases decode c.wire (b.decPos c) w with
    | ok i => exact exec_good_iff f c i hgood
    | error e => exact (reply_raisesNothing (r := .refused (refusalOf e)) fun _ => nofun).good_iff hgood

end Raise

/-- The exception in the machine: the unit's flag and the result, and a state that is not good. -/
theorem exec_of_wrongLength {i : Instr} {s : State} {u : Analyzer} (h : WrongLength s.cfg i u) (hfault : s.faulted u = false) :
    ∃ t : State, exec i s = .next t ∧ ¬ t.Good ∧ t = { s.setFault u with result := .raised ⟨blockLengthCode, u⟩ } := by
  refine ⟨_, ?_, s.not_good_setFault u, rfl⟩
  rw [exec_eq, BlockState.exec_of_wrongLength _ h hfault]
  rfl

/-- With an input pending a good state steps to a good one exactly where the step raises nothing. -/
theorem safeStep_iff {s : State} (hvalid : s.cfg.Valid) (hgood : s.Good) (hinbox : s.inbox ≠ []) :
    SafeStep s ↔ ∀ (t : State) (e : ExceptionRecord), step s = .next t → t.result ≠ .raised e := by
  obtain ⟨input, rest, hinbox⟩ := List.exists_cons_of_ne_nil hinbox
  have hgood_iff := BlockState.step_good_iff s.cfg.fns s.cfg input hgood
  rw [SafeStep, step_of_pending hvalid hinbox]
  constructor
  · rintro ⟨t, ht, htgood⟩ t' e ht'
    injection ht with ht
    injection ht' with ht'
    subst ht ht'
    exact hgood_iff.mp htgood e
  · exact fun h => ⟨_, rfl, hgood_iff.mpr fun e => h _ e rfl⟩

/-- Settles O14: an instruction of the machine is the block's, which raises on a wrong length alone. -/
theorem blockLengthIsTheOnlyException : Obligations.BlockLengthIsTheOnlyException := fun i s =>
  ⟨_, exec_eq i s, BlockState.exec_result_raised_iff s.cfg.fns s.cfg i s.toBlockState⟩

/-- Settles O15: the three operations on a wrong length, and the good states that a step reaches. -/
theorem blockLengthSetsOnlyTheFlag : Obligations.BlockLengthSetsOnlyTheFlag := by
  refine ⟨fun blk s hfault hlen => ?_, fun left right s hfault hlen => ?_, fun blk s hfault hlen => ?_, fun _ => safeStep_iff⟩
  · exact exec_of_wrongLength (u := .sa) (.inl ⟨blk, rfl, rfl, hlen⟩) hfault
  · exact exec_of_wrongLength (u := .lm) (.inr (.inl ⟨left, right, rfl, rfl, hlen⟩)) hfault
  · exact exec_of_wrongLength (u := .wt) (.inr (.inr ⟨blk, rfl, rfl, hlen⟩)) hfault

/-! ## A faulted unit (R274) -/

theorem exec_of_faulted {i : Instr} {s : State} {u : Analyzer} (hi : unitOf i = u.unit) (h : s.faulted u = true) :
    exec i s = .next { s with result := .refused (.unitFaulted u) } := by
  rw [exec_eq, BlockState.exec_of_faulted _ _ hi h]
  rfl

/-- Settles O16: the three operations are their units' own. -/
theorem faultedUnitRefuses : Obligations.FaultedUnitRefuses :=
  ⟨fun _ _ => exec_of_faulted (u := .sa) rfl, fun _ _ _ => exec_of_faulted (u := .lm) rfl, fun _ _ => exec_of_faulted (u := .wt) rfl⟩

/-! ## The other agents (R274, R287) -/

section OtherUnits

variable {K : Type}

/-- The analyzers are the producer's (R286). -/
theorem agentOf_eq_prod_of_unitOf {i : Instr K} {u : Analyzer} (h : unitOf i = u.unit) : agentOf i = .prod := by
  cases i with
  | saProcess | lmProcess | wtProcess => rfl
  | _ => cases u <;> cases h

/-- The state of an analyzer with its flag set. -/
def UnitState.setFault : (u : Analyzer) → UnitState K u.unit → UnitState K u.unit
  | .sa, x => { (x : SaState K) with fault := true }
  | .lm, x => { (x : LmState K) with fault := true }
  | .wt, x => { (x : WtState K) with fault := true }

theorem BlockState.setFault_eq_setUnit (b : BlockState K) (u : Analyzer) :
    b.setFault u = b.setUnit u.unit (UnitState.setFault u (b.unit u.unit)) := by
  cases u <;> rfl

variable [Field K] [LinearOrder K] [FloorRing K] (f : NumFns K) (c : ConfigOf K) {i : Instr K} (b : BlockState K)

/-- An operation does the same whatever stands in another unit (R41). -/
theorem BlockState.exec_setUnit_of_ne {u : BlockUnit} (h : unitOf i ≠ u) (x : UnitState K u) :
    (b.setUnit u x).exec f c i = ((b.exec f c i).1.setUnit u x, (b.exec f c i).2) := by
  simp only [exec_eq_unitEffect, unit_setUnit_of_ne b h.symm, setUnit_comm b h.symm]

theorem BlockState.exec_setFault_of_ne {u : Analyzer} (h : unitOf i ≠ u.unit) :
    (b.setFault u).exec f c i = ((b.exec f c i).1.setFault u, (b.exec f c i).2) := by
  rw [setFault_eq_setUnit, setFault_eq_setUnit, exec_setUnit_of_ne f c b h, exec_unit_of_ne f c i b h]

end OtherUnits

/-- Settles O18: the operation is of another unit than the faulted one. -/
theorem faultIsInvisibleToOtherAgents : Obligations.FaultIsInvisibleToOtherAgents := by
  intro i s t u hagent h
  rw [exec_eq] at h
  injection h with h
  subst h
  have hne : unitOf i ≠ u.unit := fun h => hagent (agentOf_eq_prod_of_unitOf h)
  rw [exec_eq]
  exact State.next_answer_congr (s.setFault u) (s.toBlockState.exec_setFault_of_ne s.cfg.fns s.cfg hne)

end Sys2Proof.Machine
end
